-- ==== Sys2Proof/Word.lean ====
section
/-! DEFINITION. Word types of the block and their narrowing (spec/00_scope.md R5, R7). -/

namespace Sys2Proof

/-- An 8-bit unsigned value: a memory cell, a general register, a timer (R5). -/
abbrev Byte := BitVec 8

/-- A 16-bit unsigned value: an instruction word, I, PC, a return address (R5). -/
abbrev Word := BitVec 16

/-- The index of a general register V0–VF, or of a key 0x0–0xF (R20, R31). -/
abbrev Reg := Fin 16

/-- VF, register 15, which doubles as the flag output (R22). -/
abbrev regF : Reg := 15

/-- `trunc_8` of R7. -/
def trunc8 (n : Nat) : Byte := BitVec.ofNat 8 n

/-- `trunc_16` of R7. -/
def trunc16 (n : Nat) : Word := BitVec.ofNat 16 n

end Sys2Proof
end

