-- ==== Sys2Proof/Syntax.lean ====
section
/-! DEFINITION. The 34 instructions of the opcode table (spec/30_encoding.md R76), one constructor a row.
Operands are typed by their field's range (R73): a register index 0–15, a byte, a 12-bit address, a row count 0–15. -/

namespace Sys2Proof

/-- One constructor per row of spec/opcode_table.json, in the table's order. -/
inductive Instr where
  /-- 00E0: clear the screen (R100) -/
  | cls
  /-- 00EE: return from subroutine (R121) -/
  | ret
  /-- 1NNN: jump (R122) -/
  | jump (nnn : BitVec 12)
  /-- 2NNN: call subroutine (R123) -/
  | call (nnn : BitVec 12)
  /-- 3XNN: skip if VX = NN (R124) -/
  | seImm (x : Reg) (nn : Byte)
  /-- 4XNN: skip if VX ≠ NN (R125) -/
  | sneImm (x : Reg) (nn : Byte)
  /-- 5XY0: skip if VX = VY (R126) -/
  | seReg (x y : Reg)
  /-- 6XNN: load immediate (R151) -/
  | ldImm (x : Reg) (nn : Byte)
  /-- 7XNN: add immediate, no carry (R152) -/
  | addImm (x : Reg) (nn : Byte)
  /-- 8XY0: copy register (R153) -/
  | mov (x y : Reg)
  /-- 8XY1: bitwise OR (R154) -/
  | orReg (x y : Reg)
  /-- 8XY2: bitwise AND (R155) -/
  | andReg (x y : Reg)
  /-- 8XY3: bitwise exclusive OR (R156) -/
  | xorReg (x y : Reg)
  /-- 8XY4: add with carry out (R157) -/
  | addReg (x y : Reg)
  /-- 8XY5: VX − VY with not-borrow (R158) -/
  | subReg (x y : Reg)
  /-- 8XY6: shift VX right by one; Y is encoded and ignored (R159) -/
  | shr (x y : Reg)
  /-- 8XY7: VY − VX with not-borrow (R160) -/
  | subnReg (x y : Reg)
  /-- 8XYE: shift VX left by one; Y is encoded and ignored (R161) -/
  | shl (x y : Reg)
  /-- 9XY0: skip if VX ≠ VY (R127) -/
  | sneReg (x y : Reg)
  /-- ANNN: load index (R180) -/
  | ldI (nnn : BitVec 12)
  /-- BNNN: jump to NNN + V0 (R128) -/
  | jumpV0 (nnn : BitVec 12)
  /-- CXNN: random byte masked (R165) -/
  | rnd (x : Reg) (nn : Byte)
  /-- DXYN: draw an N-row sprite (R101) -/
  | draw (x y : Reg) (n : Fin 16)
  /-- EX9E: skip if key VX is pressed (R201) -/
  | skp (x : Reg)
  /-- EXA1: skip if key VX is not pressed (R202) -/
  | sknp (x : Reg)
  /-- FX07: read the delay timer (R203) -/
  | getDt (x : Reg)
  /-- FX0A: wait for a key and store it (R204) -/
  | waitKey (x : Reg)
  /-- FX15: set the delay timer (R205) -/
  | setDt (x : Reg)
  /-- FX18: set the sound timer (R206) -/
  | setSt (x : Reg)
  /-- FX1E: add VX to I (R181) -/
  | addI (x : Reg)
  /-- FX29: point I at a font glyph (R182) -/
  | glyph (x : Reg)
  /-- FX33: store the decimal digits of VX (R183) -/
  | bcd (x : Reg)
  /-- FX55: store V0 to VX (R184) -/
  | store (x : Reg)
  /-- FX65: load V0 to VX (R185) -/
  | load (x : Reg)
deriving DecidableEq, Repr

end Sys2Proof
end

