-- ==== Sys2Proof/WellFormed.lean ====
section
/-! DEFINITION. What the host must check before data reaches the core: a program image (spec/00_scope.md R16,
spec/20_memory.md R60) and, from its raw fields, an instruction (spec/30_encoding.md R73). A term of Instr carries its
operands' ranges in its types (log entry 12), so every Instr is well formed; the field checks stand for raw numbers. -/

namespace Sys2Proof

/-- MAX_IMAGE of R5: 0xFFF − 0x200 + 1. -/
def maxImage : Nat := 3584

/-- R16, R60: an image of at most 3584 bytes fits the memory from 0x200 on. -/
def imageWellFormed (image : List Byte) : Bool := decide (image.length ≤ maxImage)

/-- R73: a raw number is a register index (X, Y), a row count N or a key index. -/
def nibbleWellFormed (n : Nat) : Bool := decide (n < 16)

/-- R73: a raw number is an immediate byte NN. -/
def byteWellFormed (n : Nat) : Bool := decide (n < 256)

/-- R73: a raw number is a 12-bit address NNN. -/
def addrWellFormed (n : Nat) : Bool := decide (n < 4096)

/-- R73, for every format of R74: each operand lies in its field's range. -/
def Instr.wellFormed : Instr → Bool
  | .cls | .ret => true
  | .jump nnn | .call nnn | .ldI nnn | .jumpV0 nnn => addrWellFormed nnn.toNat
  | .seImm x nn | .sneImm x nn | .ldImm x nn | .addImm x nn | .rnd x nn =>
    nibbleWellFormed x.val && byteWellFormed nn.toNat
  | .seReg x y | .sneReg x y | .mov x y | .orReg x y | .andReg x y | .xorReg x y | .addReg x y
  | .subReg x y | .shr x y | .subnReg x y | .shl x y => nibbleWellFormed x.val && nibbleWellFormed y.val
  | .draw x y n => nibbleWellFormed x.val && nibbleWellFormed y.val && nibbleWellFormed n.val
  | .skp x | .sknp x | .getDt x | .waitKey x | .setDt x | .setSt x | .addI x | .glyph x | .bcd x
  | .store x | .load x => nibbleWellFormed x.val

end Sys2Proof
end

