-- ==== Sys2Proof/Decode.lean ====
section
/-! DEFINITION. Fields, decoder, encoder and the opcode map of spec/30_encoding.md (R72–R80). -/

namespace Sys2Proof

/-! ## Fields (R72) -/

/-- `w[hi:lo]` of R6 as a bit vector, `len = hi − lo + 1` bits from bit `lo`. -/
def field (w : Word) (lo len : Nat) : BitVec len := w.extractLsb' lo len

/-- `op = w[15:12]`. -/
def fieldOp (w : Word) : BitVec 4 := field w 12 4
/-- `X = w[11:8]`, a register index. -/
def fieldX (w : Word) : Reg := (field w 8 4).toFin
/-- `Y = w[7:4]`, a register index. -/
def fieldY (w : Word) : Reg := (field w 4 4).toFin
/-- `N = w[3:0]`, a row count or a sub-operation. -/
def fieldN (w : Word) : Fin 16 := (field w 0 4).toFin
/-- `NN = w[7:0]`. -/
def fieldNN (w : Word) : Byte := field w 0 8
/-- `NNN = w[11:0]`. -/
def fieldNNN (w : Word) : BitVec 12 := field w 0 12

/-! ## Decoding (R75, R77) -/

/-- Group 0x8 of R77: the low nibble selects among 0–7 and E. -/
def decodeGroup8 (w : Word) : Option Instr :=
  match (fieldN w).val with
  | 0x0 => some (.mov (fieldX w) (fieldY w))
  | 0x1 => some (.orReg (fieldX w) (fieldY w))
  | 0x2 => some (.andReg (fieldX w) (fieldY w))
  | 0x3 => some (.xorReg (fieldX w) (fieldY w))
  | 0x4 => some (.addReg (fieldX w) (fieldY w))
  | 0x5 => some (.subReg (fieldX w) (fieldY w))
  | 0x6 => some (.shr (fieldX w) (fieldY w))
  | 0x7 => some (.subnReg (fieldX w) (fieldY w))
  | 0xE => some (.shl (fieldX w) (fieldY w))
  | _ => none

/-- Group 0xE of R77: the low byte selects between 0x9E and 0xA1. -/
def decodeGroupE (w : Word) : Option Instr :=
  match (fieldNN w).toNat with
  | 0x9E => some (.skp (fieldX w))
  | 0xA1 => some (.sknp (fieldX w))
  | _ => none

/-- Group 0xF of R77: the low byte selects the member. -/
def decodeGroupF (w : Word) : Option Instr :=
  match (fieldNN w).toNat with
  | 0x07 => some (.getDt (fieldX w))
  | 0x0A => some (.waitKey (fieldX w))
  | 0x15 => some (.setDt (fieldX w))
  | 0x18 => some (.setSt (fieldX w))
  | 0x1E => some (.addI (fieldX w))
  | 0x29 => some (.glyph (fieldX w))
  | 0x33 => some (.bcd (fieldX w))
  | 0x55 => some (.store (fieldX w))
  | 0x65 => some (.load (fieldX w))
  | _ => none

/-- Group 0x0 of R77: the word must be exactly 0x00E0 or 0x00EE. -/
def decodeGroup0 (w : Word) : Option Instr :=
  match w.toNat with
  | 0x00E0 => some .cls
  | 0x00EE => some .ret
  | _ => none

/-- The instruction a word decodes to, by the groups of R77; `none` is R80's unknown word. -/
def decodeWord (w : Word) : Option Instr :=
  match (fieldOp w).toNat with
  | 0x0 => decodeGroup0 w
  | 0x1 => some (.jump (fieldNNN w))
  | 0x2 => some (.call (fieldNNN w))
  | 0x3 => some (.seImm (fieldX w) (fieldNN w))
  | 0x4 => some (.sneImm (fieldX w) (fieldNN w))
  | 0x5 => if (fieldN w).val = 0 then some (.seReg (fieldX w) (fieldY w)) else none
  | 0x6 => some (.ldImm (fieldX w) (fieldNN w))
  | 0x7 => some (.addImm (fieldX w) (fieldNN w))
  | 0x8 => decodeGroup8 w
  | 0x9 => if (fieldN w).val = 0 then some (.sneReg (fieldX w) (fieldY w)) else none
  | 0xA => some (.ldI (fieldNNN w))
  | 0xB => some (.jumpV0 (fieldNNN w))
  | 0xC => some (.rnd (fieldX w) (fieldNN w))
  | 0xD => some (.draw (fieldX w) (fieldY w) (fieldN w))
  | 0xE => decodeGroupE w
  | 0xF => decodeGroupF w
  | _ => none

/-- Why a byte sequence is no instruction. -/
inductive Reject where
  /-- fewer than the two bytes every instruction has (R70) -/
  | truncated
  /-- the word matches no row of the opcode map (R80) -/
  | unknownWord (w : Word)
deriving DecidableEq, Repr

/-- The word of two bytes, big-endian: the byte at the lower address is bits 15–8 (R53). -/
def wordOfBytes (hi lo : Byte) : Word := hi ++ lo

/-- The byte of a word at the lower address (R53). -/
def hiByte (w : Word) : Byte := field w 8 8
/-- The byte of a word at the higher address (R53). -/
def loByte (w : Word) : Byte := field w 0 8

/-- Decoding the first instruction of a byte sequence, with the rest of it (R53, R70). -/
def decodeBytes : List Byte → Except Reject (Instr × List Byte)
  | hi :: lo :: rest =>
    match decodeWord (wordOfBytes hi lo) with
    | some i => .ok (i, rest)
    | none => .error (.unknownWord (wordOfBytes hi lo))
  | _ => .error .truncated

/-! ## Encoding (R74, R76) -/

/-- Format A: op and a 12-bit address. -/
def fmtA (op : BitVec 4) (nnn : BitVec 12) : Word := op ++ nnn
/-- Format XB: op, X and a byte. Format XF is the same with the byte fixed. -/
def fmtXB (op : BitVec 4) (x : Reg) (nn : Byte) : Word := op ++ ((BitVec.ofFin x : BitVec 4) ++ nn : BitVec 12)
/-- Format XY: op, X, Y and a fixed low nibble. Format XYN is the same with the nibble free. -/
def fmtXY (op : BitVec 4) (x y : Reg) (n : Fin 16) : Word :=
  fmtXB op x ((BitVec.ofFin y : BitVec 4) ++ (BitVec.ofFin n : BitVec 4) : BitVec 8)

/-- The word of an instruction, by the patterns of R76. -/
def encode : Instr → Word
  | .cls => 0x00E0
  | .ret => 0x00EE
  | .jump nnn => fmtA 0x1 nnn
  | .call nnn => fmtA 0x2 nnn
  | .seImm x nn => fmtXB 0x3 x nn
  | .sneImm x nn => fmtXB 0x4 x nn
  | .seReg x y => fmtXY 0x5 x y 0x0
  | .ldImm x nn => fmtXB 0x6 x nn
  | .addImm x nn => fmtXB 0x7 x nn
  | .mov x y => fmtXY 0x8 x y 0x0
  | .orReg x y => fmtXY 0x8 x y 0x1
  | .andReg x y => fmtXY 0x8 x y 0x2
  | .xorReg x y => fmtXY 0x8 x y 0x3
  | .addReg x y => fmtXY 0x8 x y 0x4
  | .subReg x y => fmtXY 0x8 x y 0x5
  | .shr x y => fmtXY 0x8 x y 0x6
  | .subnReg x y => fmtXY 0x8 x y 0x7
  | .shl x y => fmtXY 0x8 x y 0xE
  | .sneReg x y => fmtXY 0x9 x y 0x0
  | .ldI nnn => fmtA 0xA nnn
  | .jumpV0 nnn => fmtA 0xB nnn
  | .rnd x nn => fmtXB 0xC x nn
  | .draw x y n => fmtXY 0xD x y n
  | .skp x => fmtXB 0xE x 0x9E
  | .sknp x => fmtXB 0xE x 0xA1
  | .getDt x => fmtXB 0xF x 0x07
  | .waitKey x => fmtXB 0xF x 0x0A
  | .setDt x => fmtXB 0xF x 0x15
  | .setSt x => fmtXB 0xF x 0x18
  | .addI x => fmtXB 0xF x 0x1E
  | .glyph x => fmtXB 0xF x 0x29
  | .bcd x => fmtXB 0xF x 0x33
  | .store x => fmtXB 0xF x 0x55
  | .load x => fmtXB 0xF x 0x65

/-- The bytes of an instruction as memory holds them, the high byte first (R53). -/
def encodeBytes (i : Instr) : List Byte := [hiByte (encode i), loByte (encode i)]

/-! ## The opcode map (R76) -/

/-- The pair (match, mask) of R76. -/
abbrev Pattern := Word × Word

/-- R76: "a word `w` matches when `w & mask == match`". -/
def fits (p : Pattern) (w : Word) : Bool := w &&& p.2 == p.1

/-- The row of R76 an instruction belongs to: its match and its mask. -/
def Instr.pattern : Instr → Pattern
  | .cls => (0x00E0, 0xFFFF)
  | .ret => (0x00EE, 0xFFFF)
  | .jump _ => (0x1000, 0xF000)
  | .call _ => (0x2000, 0xF000)
  | .seImm _ _ => (0x3000, 0xF000)
  | .sneImm _ _ => (0x4000, 0xF000)
  | .seReg _ _ => (0x5000, 0xF00F)
  | .ldImm _ _ => (0x6000, 0xF000)
  | .addImm _ _ => (0x7000, 0xF000)
  | .mov _ _ => (0x8000, 0xF00F)
  | .orReg _ _ => (0x8001, 0xF00F)
  | .andReg _ _ => (0x8002, 0xF00F)
  | .xorReg _ _ => (0x8003, 0xF00F)
  | .addReg _ _ => (0x8004, 0xF00F)
  | .subReg _ _ => (0x8005, 0xF00F)
  | .shr _ _ => (0x8006, 0xF00F)
  | .subnReg _ _ => (0x8007, 0xF00F)
  | .shl _ _ => (0x800E, 0xF00F)
  | .sneReg _ _ => (0x9000, 0xF00F)
  | .ldI _ => (0xA000, 0xF000)
  | .jumpV0 _ => (0xB000, 0xF000)
  | .rnd _ _ => (0xC000, 0xF000)
  | .draw _ _ _ => (0xD000, 0xF000)
  | .skp _ => (0xE09E, 0xF0FF)
  | .sknp _ => (0xE0A1, 0xF0FF)
  | .getDt _ => (0xF007, 0xF0FF)
  | .waitKey _ => (0xF00A, 0xF0FF)
  | .setDt _ => (0xF015, 0xF0FF)
  | .setSt _ => (0xF018, 0xF0FF)
  | .addI _ => (0xF01E, 0xF0FF)
  | .glyph _ => (0xF029, 0xF0FF)
  | .bcd _ => (0xF033, 0xF0FF)
  | .store _ => (0xF055, 0xF0FF)
  | .load _ => (0xF065, 0xF0FF)

/-- The 34 rows of R76, in the table's order. -/
def opcodeMap : List Pattern :=
  [(0x00E0, 0xFFFF), (0x00EE, 0xFFFF), (0x1000, 0xF000), (0x2000, 0xF000), (0x3000, 0xF000), (0x4000, 0xF000),
   (0x5000, 0xF00F), (0x6000, 0xF000), (0x7000, 0xF000)] ++
  [(0x8000, 0xF00F), (0x8001, 0xF00F), (0x8002, 0xF00F), (0x8003, 0xF00F), (0x8004, 0xF00F), (0x8005, 0xF00F),
   (0x8006, 0xF00F), (0x8007, 0xF00F), (0x800E, 0xF00F)] ++
  [(0x9000, 0xF00F), (0xA000, 0xF000), (0xB000, 0xF000), (0xC000, 0xF000), (0xD000, 0xF000), (0xE09E, 0xF0FF),
   (0xE0A1, 0xF0FF)] ++
  [(0xF007, 0xF0FF), (0xF00A, 0xF0FF), (0xF015, 0xF0FF), (0xF018, 0xF0FF), (0xF01E, 0xF0FF), (0xF029, 0xF0FF),
   (0xF033, 0xF0FF), (0xF055, 0xF0FF), (0xF065, 0xF0FF)]

/-! ## The host's view of one table word -/

/-- The word whose bits spec/opcode_table.json numbers as `w`, of which it gives the row the low `nbits`. -/
def tableWord (nbits w : Nat) : Word := trunc16 (w % 2 ^ nbits)

/-- What the decoder reads from that word, laid out big-endian in memory (R53). -/
def decodeTableWord (nbits w : Nat) : Option Instr :=
  match decodeBytes [hiByte (tableWord nbits w), loByte (tableWord nbits w)] with
  | .ok (i, _) => some i
  | .error _ => none

end Sys2Proof
end

