-- ==== Sys2Proof/Config.lean ====
section
/-! DEFINITION. The block's parameters (spec/00_scope.md R5) and the free values of the model. -/

namespace Sys2Proof

/-- TIMER_TICK_SOURCE of R5 and R213: who ticks the timers. -/
inductive TickSource where
  /-- one tick at the end of every Completed step (R92) -/
  | perCycle
  /-- ticks come only from the host's timer_tick action (R213) -/
  | external
deriving DecidableEq, Repr

/-- The bytes of the font table at 0x000–0x04F, the parameter FONT_ROM of R5 and R262. -/
abbrev Font := Vector Byte 80

/-- The parameters a claim may depend on: any value of them is a machine of the spec (R5, log entry 4). -/
structure Config where
  /-- TIMER_TICK_SOURCE -/
  tickSource : TickSource
  /-- FONT_ROM -/
  fontRom : Font
deriving DecidableEq, Repr

/-- FREE VALUE (DESIGN CHOICE, log entry 3). The random byte of the n-th CXNN: R166 makes it an input under no law,
so the constant has no body and a claim holds for every value. -/
opaque Config.rndByte : Nat → Byte

/-- FREE VALUE. TIMER_HZ of R5, the rate of external ticks: OPEN, and no rule depends on it (R213, log entry 6). -/
opaque Config.timerHz : Nat

end Sys2Proof
end

