-- ==== Sys2Proof/Machine/Defaults.lean ====
section
/-! DEFINITION. The default values of the block's parameters (spec/00_scope.md R5). -/

namespace Sys2Proof.Machine

/-- The default bytes of FONT_ROM, glyph by glyph, digit 0 first (R262).
PRESUMED, unsafe (log entry 5): the spec marks them "from general knowledge, not in source". -/
def defaultFontBytes : List Byte :=
  [0xF0, 0x90, 0x90, 0x90, 0xF0] ++ [0x20, 0x60, 0x20, 0x20, 0x70] ++
  [0xF0, 0x10, 0xF0, 0x80, 0xF0] ++ [0xF0, 0x10, 0xF0, 0x10, 0xF0] ++
  [0x90, 0x90, 0xF0, 0x10, 0x10] ++ [0xF0, 0x80, 0xF0, 0x10, 0xF0] ++
  [0xF0, 0x80, 0xF0, 0x90, 0xF0] ++ [0xF0, 0x10, 0x20, 0x40, 0x40] ++
  [0xF0, 0x90, 0xF0, 0x90, 0xF0] ++ [0xF0, 0x90, 0xF0, 0x10, 0xF0] ++
  [0xF0, 0x90, 0xF0, 0x90, 0x90] ++ [0xE0, 0x90, 0xE0, 0x90, 0xE0] ++
  [0xF0, 0x80, 0x80, 0x80, 0xF0] ++ [0xE0, 0x90, 0x90, 0x90, 0xE0] ++
  [0xF0, 0x80, 0xF0, 0x80, 0xF0] ++ [0xF0, 0x80, 0xF0, 0x80, 0x80]

/-- The default FONT_ROM of R262. -/
def defaultFont : Font := Vector.ofFn fun k => defaultFontBytes.getD k.val 0

/-- The default parameters of R5: PerCycle (92_eei_decisions.md D2, log entry 4) and the default font. -/
def defaultConfig : Config := { tickSource := .perCycle, fontRom := defaultFont }

end Sys2Proof.Machine
end

