-- ==== Sys2Proof/Machine/State.lean ====
section
/-! DEFINITION. The whole state of the core (spec/10_state.md), its faults, and its value after initialize
(spec/70_reset_and_hazards.md R260). -/

namespace Sys2Proof.Machine

/-- The faults of R230, codes 2 to 5. An instruction (or the fetch) that raises one TAKES it: R231 gives the state after
it, so the step answers a next state with STATUS = Faulted (`State.raise`, log entry 1), and no step of this model ends in
`Host.Outcome.fault`. Each is the spec's own and as precise as R231 says, neither safer nor less safe than the spec. -/
inductive Fault where
  /-- code 2, raised by 2NNN with SP = 16 (R233); exact -/
  | stackOverflow
  /-- code 3, raised by 00EE with SP = 0 (R234); exact -/
  | stackUnderflow
  /-- code 4, raised by the fetch, DXYN, FX33, FX55 and FX65 at an address above 0xFFF (R235); exact -/
  | indexOutOfRange (addr : Nat)
  /-- code 5, raised by EX9E and EXA1 with VX > 15 (R237); exact -/
  | keyIndexOutOfRange (key : Byte)
deriving DecidableEq, Repr

/-- Why a step has no meaning in this model. -/
inductive Refusal where
  /-- an instruction without a meaning, by its table name; safe; no arm of `exec` answers it -/
  | notModelled (mnemonic : String)
deriving DecidableEq, Repr

/-- The fault record of R232. Its `code` and `value` are read off the fault (`Fault.code`, `Fault.value`). -/
structure FaultRecord where
  /-- the fault: its code and its offending value -/
  fault : Fault
  /-- PC at the start of the faulting step -/
  pc : Word
  /-- the fetched instruction word, none for a fetch fault -/
  word : Option Word
deriving DecidableEq, Repr

/-- STATUS of R37. -/
inductive Status where
  | running
  | faulted (record : FaultRecord)
deriving DecidableEq, Repr

/-- The status a step returns (R11). -/
inductive StepResult where
  | completed
  | waiting
  | faulted (code : Nat)
deriving DecidableEq, Repr

/-- The diagnostic of R236. -/
structure DecodeWarning where
  /-- PC of the unknown word -/
  pc : Word
  /-- the unknown word -/
  word : Word
deriving DecidableEq, Repr

/-- The outputs of one step or of one timer tick (R11). -/
structure Output where
  /-- the status a step returns; none for a timer tick of the host -/
  result : Option StepResult
  /-- a beep was emitted (R212) -/
  beep : Bool
  /-- the DecodeWarning emitted, if any (R236) -/
  warning : Option DecodeWarning
deriving DecidableEq, Repr

/-- The 64 × 32 one-bit pixels of R32, row by row: pixel (x, y) is bit x of row y (log entry 7). -/
abbrev Framebuffer := Vector (BitVec 64) 32

/-- Memory as (address, byte) pairs, addresses strictly rising, none equal to its reset content (log entry 8). -/
abbrev Memory := List Host.Cell

/-- The core (10_state.md, section 10), its parameters, and two fields of the model's own. -/
structure State where
  /-- TIMER_TICK_SOURCE and FONT_ROM: fixed for one machine, written by no step and no host action (log entry 4) -/
  cfg : Config
  /-- MEM (R50) -/
  mem : Memory
  /-- V0–VF (R20) -/
  v : Vector Byte 16
  /-- I (R24) -/
  i : Word
  /-- PC (R25) -/
  pc : Word
  /-- SP, 0–16 (R27) -/
  sp : Fin 17
  /-- STACK[0–15] (R27) -/
  stack : Vector Word 16
  /-- DT (R29) -/
  dt : Byte
  /-- ST (R30) -/
  st : Byte
  /-- KEY[0–15] (R31) -/
  keys : Vector Bool 16
  /-- FB (R32) -/
  fb : Framebuffer
  /-- REDRAW (R35) -/
  redraw : Bool
  /-- WAIT (R36): none, or the register an FX0A waits to fill -/
  wait : Option Reg
  /-- STATUS (R37) -/
  status : Status
  /-- the MODEL's own: how many random bytes have been drawn (log entry 3) -/
  draws : Nat
  /-- the MODEL's own: the outputs of the last step or timer tick (log entry 2) -/
  out : Output
deriving DecidableEq, Repr

/-- No result, no beep, no warning: the outputs before the first step (log entry 2). -/
def Output.silent : Output := { result := none, beep := false, warning := none }

/-- The state after the host action `initialize`, for parameters `c` (R260). Memory lists nothing: its reset content,
font bytes and zeros, is what an unlisted address reads as. -/
def State.initial (c : Config) : State where
  cfg := c
  mem := []
  v := Vector.replicate 16 0
  i := 0
  pc := 0x200
  sp := 0
  stack := Vector.replicate 16 0
  dt := 0
  st := 0
  keys := Vector.replicate 16 false
  fb := Vector.replicate 32 0
  redraw := true
  wait := none
  status := .running
  draws := 0
  out := .silent

/-- The machine right after reset, with the default parameters of R5. -/
def State.reset : State := .initial defaultConfig

end Sys2Proof.Machine
end

