-- ==== Sys2Proof/Machine/Ops.lean ====
section
/-! DEFINITION. The named operations over memory, registers, stack, timers and framebuffer, and the taking of a fault. -/

namespace Sys2Proof.Machine

/-! ## Memory (20_memory.md) -/

/-- What an address no write has reached reads as: the reset content of R260, the font at 0x000–0x04F and zeros above. -/
def background (font : Font) (a : Nat) : Byte := if h : a < 80 then font[a] else 0

/-- Reading one cell of a memory whose reset content is `font` and zeros. -/
def Memory.read (font : Font) : Memory → Nat → Byte
  | [], a => background font a
  | c :: m, a => if a = c.1 then c.2 else Memory.read font m a

/-- Listing `b` at `a`, addresses rising. -/
def Memory.put : Memory → Nat → Byte → Memory
  | [], a, b => [(a, b)]
  | c :: m, a, b => if a < c.1 then (a, b) :: c :: m else if a = c.1 then (a, b) :: m else c :: Memory.put m a b

/-- Unlisting `a`. -/
def Memory.drop : Memory → Nat → Memory
  | [], _ => []
  | c :: m, a => if a < c.1 then c :: m else if a = c.1 then m else c :: Memory.drop m a

/-- Writing one cell: writing its reset content unlists it, so equal memories are equal lists (log entry 8). -/
def Memory.write (font : Font) (m : Memory) (a : Nat) (b : Byte) : Memory :=
  if b = background font a then Memory.drop m a else Memory.put m a b

/-- The canonical form: addresses of the address space (R50), strictly rising, none listed with its reset content. -/
abbrev Memory.wf (font : Font) (m : Memory) : Prop :=
  m.Pairwise (fun c d => c.1 < d.1) ∧ ∀ c ∈ m, c.1 < 4096 ∧ c.2 ≠ background font c.1

/-- `MEM[a]` without the address check. -/
def State.byteAt (s : State) (a : Nat) : Byte := Memory.read s.cfg.fontRom s.mem a

/-- `MEM[a] <- b` without the address check. -/
def State.setByte (s : State) (a : Nat) (b : Byte) : State := { s with mem := Memory.write s.cfg.fontRom s.mem a b }

/-- `MEM[a + k] <- bs[k]` in rising order (R54), without the address check. -/
def State.setBytes (s : State) (a : Nat) : List Byte → State
  | [] => s
  | b :: bs => (s.setByte a b).setBytes (a + 1) bs

/-- `MemRead(a, 1)` of R52. -/
def State.memRead (s : State) (a : Nat) : Except Fault Byte :=
  if a > 0xFFF then .error (.indexOutOfRange a) else .ok (s.byteAt a)

/-- R54: the fault of an access to the `n` bytes from `base`, at the lowest address above 0xFFF, if there is one. -/
def rangeFault (base n : Nat) : Option Fault :=
  if n ≠ 0 ∧ base + (n - 1) > 0xFFF then some (.indexOutOfRange (max base 0x1000)) else none

/-- Fetch of R71: the word at PC, big-endian. -/
def State.fetch (s : State) : Except Fault Word :=
  match s.memRead s.pc.toNat with
  | .error f => .error f
  | .ok hi =>
    match s.memRead (s.pc.toNat + 1) with
    | .error f => .error f
    | .ok lo => .ok (wordOfBytes hi lo)

/-! ## Registers (10_state.md) -/

/-- `V[x]`. -/
def State.reg (s : State) (x : Reg) : Byte := s.v[x.val]

/-- `V[x] <- b`. -/
def State.setReg (s : State) (x : Reg) (b : Byte) : State := { s with v := s.v.set x.val b }

/-- `V[x], V[x + 1], … <- bs` in rising order, for as many registers as there are (R185). -/
def State.setRegs (s : State) (x : Nat) : List Byte → State
  | [] => s
  | b :: bs => (if h : x < 16 then s.setReg ⟨x, h⟩ b else s).setRegs (x + 1) bs

/-- `V[0] … V[x]` (R184). -/
def State.regsUpTo (s : State) (x : Reg) : List Byte := s.v.toList.take (x.val + 1)

/-- A flag writer's commit (R9, R22): the result first, then the flag into VF, which wins when `x` is F. -/
def State.setRegFlag (s : State) (x : Reg) (result flag : Byte) : State := (s.setReg x result).setReg regF flag

/-- `I <- w`. -/
def State.setI (s : State) (w : Word) : State := { s with i := w }

/-- `PC <- w`. -/
def State.setPc (s : State) (w : Word) : State := { s with pc := w }

/-- `PC <- trunc_16(PC + 2)`: the post-step advance (R25, R91). -/
def State.advance (s : State) : State := s.setPc (s.pc + 2)

/-- `PC <- trunc_16(PC + 4)` when the condition holds, else `PC + 2` (R120 (b)). -/
def State.skipIf (s : State) (cond : Bool) : State := if cond then s.setPc (s.pc + 4) else s.advance

/-! ## Faults (60_exceptions.md) -/

/-- The code of R230. -/
def Fault.code : Fault → Nat
  | .stackOverflow => 2
  | .stackUnderflow => 3
  | .indexOutOfRange _ => 4
  | .keyIndexOutOfRange _ => 5

/-- The offending value of R232: SP, the address, or VX. -/
def Fault.value : Fault → Nat
  | .stackOverflow => 16
  | .stackUnderflow => 0
  | .indexOutOfRange a => a
  | .keyIndexOutOfRange k => k.toNat

/-- Code 1 of R230: the diagnostic DecodeWarning, no fault. -/
def decodeWarningCode : Nat := 1

/-- Code 6 of R230: the failure of the host's load action. -/
def loadErrorCode : Nat := 6

/-- TAKING A FAULT (R231, R232, R241): nothing is written but STATUS, which records the fault, PC and the word. There is
no return from it: R242. -/
def State.raise (s : State) (word : Option Word) (f : Fault) : State :=
  { s with status := .faulted { fault := f, pc := s.pc, word := word } }

/-- An instruction raises `f` if there is one, before its first write (R231), and otherwise ends in `t`. The recorded word
is the instruction's own encoding, which is the word fetched (log entry 9). -/
def State.guarded (s : State) (i : Instr) (f : Option Fault) (t : State) : State :=
  match f with
  | some f => s.raise (some (encode i)) f
  | none => t

/-! ## Call stack (R27, R28) -/

/-- The fault of a push: StackOverflow when SP = 16 (R233). -/
def State.pushFault (s : State) : Option Fault := if s.sp = 16 then some .stackOverflow else none

/-- `STACK[SP] <- w; SP <- SP + 1`. -/
def State.push (s : State) (w : Word) : State :=
  if h : s.sp.val < 16 then { s with stack := s.stack.set s.sp.val w, sp := ⟨s.sp.val + 1, by omega⟩ } else s

/-- The fault of a pop: StackUnderflow when SP = 0 (R234). -/
def State.popFault (s : State) : Option Fault := if s.sp = 0 then some .stackUnderflow else none

/-- `SP <- SP - 1; PC <- STACK[SP]`: the popped entry keeps its value (R28). -/
def State.popPc (s : State) : State :=
  { s with sp := ⟨s.sp.val - 1, by omega⟩, pc := s.stack[s.sp.val - 1]'(by omega) }

/-! ## Timers (44_timers_input.md) -/

/-- `DT <- b`. -/
def State.setDelay (s : State) (b : Byte) : State := { s with dt := b }

/-- `ST <- b`. -/
def State.setSound (s : State) (b : Byte) : State := { s with st := b }

/-- One step of a countdown that stops at zero (R210). -/
def countDown (b : Byte) : Byte := if b = 0 then 0 else b - 1

/-- The state after one TimerTick of R211. -/
def State.tick (s : State) : State := { s with dt := countDown s.dt, st := countDown s.st }

/-- Whether that tick emits a beep: ST goes from exactly 1 to 0 (R212). -/
def State.tickBeeps (s : State) : Bool := s.st == 1

/-! ## Input latch (R31, R204) -/

/-- `KEY[k]`. -/
def State.key (s : State) (k : Reg) : Bool := s.keys[k.val]

/-- `min { k | KEY[k] }`, if some key is pressed. -/
def State.lowestKey (s : State) : Option Reg := (List.finRange 16).find? s.key

/-! ## Framebuffer (R33) -/

/-- `FB[x, y]`, for x < 64 and y < 32; false elsewhere, where no cell is. -/
def Framebuffer.pixel (fb : Framebuffer) (x y : Nat) : Bool := if h : y < 32 then fb[y].getLsbD x else false

/-- `FB[x, y] <- FB[x, y] ^ 1`, for x < 64 and y < 32. -/
def Framebuffer.flip (fb : Framebuffer) (x y : Nat) : Framebuffer :=
  if h : y < 32 then fb.set y (fb[y] ^^^ BitVec.twoPow 64 x) else fb

/-- The blank screen of R100 and R260. -/
def Framebuffer.blank : Framebuffer := Vector.replicate 32 0

/-- Cell `y·64 + x` of the 2048-cell sequence (R33), as the host's renderer reads it (R13). -/
def Framebuffer.cell (fb : Framebuffer) (n : Nat) : Bool := Framebuffer.pixel fb (n % 64) (n / 64)

/-- `FB[x, y]` of a state. -/
def State.pixel (s : State) (x y : Nat) : Bool := Framebuffer.pixel s.fb x y

/-- A new framebuffer, and the redraw flag set (R35). -/
def State.show (s : State) (fb : Framebuffer) : State := { s with fb := fb, redraw := true }

/-! ## The random byte (R166) -/

/-- The random byte the next CXNN receives: a free value (log entry 3). -/
def State.nextRnd (s : State) : Byte := Config.rndByte s.draws

/-- That byte is consumed, so the next CXNN receives another. -/
def State.consumeRnd (s : State) : State := { s with draws := s.draws + 1 }

end Sys2Proof.Machine
end

