-- ==== Sys2Proof/Machine/Operands.lean ====
section
/-! DEFINITION. Operand forms: immediates, jump targets and effective addresses (spec/30_encoding.md R73,
spec/43_index_memory.md R186). -/

namespace Sys2Proof.Machine

/-- `zext_16(NNN)` (R73). -/
def zextAddr (nnn : BitVec 12) : Word := nnn.setWidth 16

/-- `zext_16(VX)` of a register value (R128). -/
def zextByte (b : Byte) : Word := b.setWidth 16

/-- BNNN's target `zext_16(NNN) + zext_16(V[0])` (R128): never reduced to 12 bits. -/
def State.offsetTarget (s : State) (nnn : BitVec 12) : Word := zextAddr nnn + zextByte (s.reg 0)

/-- The effective address of the first byte an instruction accesses: I, as an exact number (R52, R186). -/
def State.ea (s : State) : Nat := s.i.toNat

/-- FX1E's `trunc_16(I + V[X])` (R181). -/
def State.indexSum (s : State) (x : Reg) : Word := trunc16 (s.i.toNat + (s.reg x).toNat)

/-- FX29's `V[X] * 5`, not masked (R182). -/
def State.glyphAddr (s : State) (x : Reg) : Word := trunc16 ((s.reg x).toNat * 5)

/-- FX33's digits of VX, hundreds first (R183). -/
def bcdDigits (v : Byte) : List Byte := [trunc8 (v.toNat / 100), trunc8 (v.toNat / 10 % 10), trunc8 (v.toNat % 10)]

/-- The `n` bytes from the effective address on (R101, R185). -/
def State.bytesAtI (s : State) (n : Nat) : List Byte := (List.range n).map fun k => s.byteAt (s.ea + k)

/-- EX9E's and EXA1's check on the key index `V[X]` (R200). -/
def State.keyFault (s : State) (x : Reg) : Option Fault :=
  if (s.reg x).toNat > 15 then some (.keyIndexOutOfRange (s.reg x)) else none

/-- `KEY[V[X]]`; false outside the latch, where `keyFault` stops first. -/
def State.keyOf (s : State) (x : Reg) : Bool :=
  if h : (s.reg x).toNat < 16 then s.key ⟨(s.reg x).toNat, h⟩ else false

end Sys2Proof.Machine
end

