-- ==== Sys2Proof/Machine/Timers.lean ====
section
/-! DEFINITION. Key, timer and key-wait instructions (spec/44_timers_input.md). -/

namespace Sys2Proof.Machine

/-- EX9E (R201). -/
def execSkp (x : Reg) (s : State) : Host.Outcome State Fault Refusal :=
  .next (s.guarded (.skp x) (s.keyFault x) (s.skipIf (s.keyOf x)))

/-- EXA1 (R202). -/
def execSknp (x : Reg) (s : State) : Host.Outcome State Fault Refusal :=
  .next (s.guarded (.sknp x) (s.keyFault x) (s.skipIf (!s.keyOf x)))

/-- FX07 (R203): DT as it is before this step's tick. -/
def execGetDt (x : Reg) (s : State) : Host.Outcome State Fault Refusal := .next (s.setReg x s.dt).advance

/-- WAIT <- `w`. -/
def State.setWait (s : State) (w : Option Reg) : State := { s with wait := w }

/-- FX0A (R204): the lowest pressed key, or the awaiting-key sub-state with PC unchanged. -/
def execWaitKey (x : Reg) (s : State) : Host.Outcome State Fault Refusal :=
  match s.lowestKey with
  | some k => .next (s.setReg x (BitVec.ofNat 8 k.val)).advance
  | none => .next (s.setWait (some x))

/-- The body of an awaiting-key step (R208) with WAIT = Key(x): no fetch; with no key pressed nothing changes. -/
def State.awaitKey (s : State) (x : Reg) : State :=
  match s.lowestKey with
  | some k => ((s.setReg x (BitVec.ofNat 8 k.val)).setWait none).advance
  | none => s

/-- FX15 (R205). -/
def execSetDt (x : Reg) (s : State) : Host.Outcome State Fault Refusal := .next (s.setDelay (s.reg x)).advance

/-- FX18 (R206): the write itself emits no beep. -/
def execSetSt (x : Reg) (s : State) : Host.Outcome State Fault Refusal := .next (s.setSound (s.reg x)).advance

end Sys2Proof.Machine
end

