-- ==== Sys2Proof/Machine/Cycle.lean ====
section
/-! DEFINITION. The parts of one step around the execution of an instruction (spec/30_encoding.md R80, R90–R92). -/

namespace Sys2Proof.Machine

/-- TimerStep of R92: one tick in PerCycle mode, nothing in External mode. -/
def State.timerStep (s : State) : State :=
  match s.cfg.tickSource with
  | .perCycle => s.tick
  | .external => s

/-- Whether that TimerStep emits a beep (R212). -/
def State.timerStepBeeps (s : State) : Bool :=
  match s.cfg.tickSource with
  | .perCycle => s.tickBeeps
  | .external => false

/-- The outputs of the step replace those of the step before (R11, log entry 2). -/
def State.emit (s : State) (r : Option StepResult) (beep : Bool) (w : Option DecodeWarning) : State :=
  { s with out := { result := r, beep := beep, warning := w } }

/-- The end of every step (R90): Faulted and Waiting return as they are; otherwise the timer step runs and the step is
Completed. `w` is the DecodeWarning of the step, if it emitted one. -/
def State.finish (s : State) (w : Option DecodeWarning) : State :=
  match s.status with
  | .faulted r => s.emit (some (.faulted r.fault.code)) false none
  | .running =>
    match s.wait with
    | some _ => s.emit (some .waiting) false none
    | none => s.timerStep.emit (some .completed) s.timerStepBeeps w

/-- The whole step of an unknown word `w` (R80, R236): DecodeWarning(PC, w), PC + 2, the timer step. -/
def State.unknownStep (s : State) (w : Word) : State := s.advance.finish (some { pc := s.pc, word := w })

/-- The whole step of a failed fetch (R71, R232): the record holds no word. -/
def State.fetchFaultStep (s : State) (f : Fault) : State := (s.raise none f).finish none

/-- The whole awaiting-key step (R208). -/
def State.awaitKeyStep (s : State) (x : Reg) : State := (s.awaitKey x).finish none

/-- The whole step of a Faulted core (R243). -/
def State.faultedStep (s : State) : State := s.finish none

end Sys2Proof.Machine
end

