-- ==== Sys2Proof/Machine/Flags.lean ====
section
/-! DEFINITION. The results and flags of the five flag-writing register instructions (spec/10_state.md R23,
spec/42_alu.md R150): each flag is 1 or 0, computed on exact natural numbers. -/

namespace Sys2Proof.Machine

/-- A Boolean as a value: 1 for true, 0 for false (R7). -/
def flagOf (b : Bool) : Byte := if b then 1 else 0

/-- 8XY4: `trunc_8(a + b)` (R157). -/
def addResult (a b : Byte) : Byte := trunc8 (a.toNat + b.toNat)

/-- 8XY4: carry, the exact sum exceeds 255 (R157). -/
def carryFlag (a b : Byte) : Byte := flagOf (decide (a.toNat + b.toNat > 255))

/-- `trunc_8(a + 256 - b)`: 8XY5 on (VX, VY), 8XY7 on (VY, VX) (R158, R160). -/
def subResult (a b : Byte) : Byte := trunc8 (a.toNat + 256 - b.toNat)

/-- Not-borrow of `a − b`: 0 if a < b, else 1 (R158, R160). -/
def notBorrowFlag (a b : Byte) : Byte := flagOf (!decide (a.toNat < b.toNat))

/-- 8XY6: `a >> 1` (R159). -/
def shrResult (a : Byte) : Byte := trunc8 (a.toNat / 2)

/-- 8XY6: bit 0 before the shift (R159). -/
def shrFlag (a : Byte) : Byte := flagOf (a.getLsbD 0)

/-- 8XYE: `trunc_8(a << 1)` (R161). -/
def shlResult (a : Byte) : Byte := trunc8 (a.toNat * 2)

/-- 8XYE: bit 7 before the shift (R161). -/
def shlFlag (a : Byte) : Byte := flagOf (a.getLsbD 7)

end Sys2Proof.Machine
end

