-- ==== Sys2Proof/Machine/Display.lean ====
section
/-! DEFINITION. The display instructions 00E0 and DXYN (spec/40_display.md). -/

namespace Sys2Proof.Machine

/-- The framebuffer and the collision flag while a sprite is drawn. -/
abbrev Canvas := Framebuffer × Bool

/-- One 1 bit of a sprite at the exact coordinates (px, py): clipped outside 64 × 32 (R104), else the collision is noted
when the pixel is 1 and the pixel is inverted (R101, R103). -/
def plot (c : Canvas) (px py : Nat) : Canvas :=
  if px < 64 ∧ py < 32 then (Framebuffer.flip c.1 px py, c.2 || Framebuffer.pixel c.1 px py) else c

/-- One sprite row from column `x0` on row `py`, bit 7 leftmost (R102). -/
def drawRow (row : Byte) (x0 py : Nat) (c : Canvas) : Canvas :=
  (List.range 8).foldl (fun c k => if row.getLsbD (7 - k) then plot c (x0 + k) py else c) c

/-- The rows of a sprite, downwards from row `py` (R101). -/
def drawRows (x0 : Nat) : Nat → List Byte → Canvas → Canvas
  | _, [], c => c
  | py, row :: rows, c => drawRows x0 (py + 1) rows (drawRow row x0 py c)

/-- 00E0 (R100). -/
def execCls (s : State) : Host.Outcome State Fault Refusal := .next (s.show Framebuffer.blank).advance

/-- What DXYN does to the framebuffer of `s`: `n` rows from I at (VX, VY), starting with no collision (R101). -/
def State.drawSprite (s : State) (x y : Reg) (n : Nat) : Canvas :=
  drawRows (s.reg x).toNat (s.reg y).toNat (s.bytesAtI n) (s.fb, false)

/-- DXYN (R101): all sprite addresses checked first, the flag written last. -/
def execDraw (x y : Reg) (n : Fin 16) (s : State) : Host.Outcome State Fault Refusal :=
  .next (s.guarded (.draw x y n) (rangeFault s.ea n.val)
    ((s.show (s.drawSprite x y n.val).1).setReg regF (flagOf (s.drawSprite x y n.val).2)).advance)

end Sys2Proof.Machine
end

