-- ==== Sys2Proof/Machine/Index.lean ====
section
/-! DEFINITION. Index register and memory instructions (spec/43_index_memory.md). No access changes I (R186). -/

namespace Sys2Proof.Machine

/-- ANNN (R180). -/
def execLdI (nnn : BitVec 12) (s : State) : Host.Outcome State Fault Refusal := .next (s.setI (zextAddr nnn)).advance

/-- FX1E (R181): 16-bit wrap, no flag. -/
def execAddI (x : Reg) (s : State) : Host.Outcome State Fault Refusal := .next (s.setI (s.indexSum x)).advance

/-- FX29 (R182). -/
def execGlyph (x : Reg) (s : State) : Host.Outcome State Fault Refusal := .next (s.setI (s.glyphAddr x)).advance

/-- FX33 (R183): all three addresses checked before the first write. -/
def execBcd (x : Reg) (s : State) : Host.Outcome State Fault Refusal :=
  .next (s.guarded (.bcd x) (rangeFault s.ea 3) (s.setBytes s.ea (bcdDigits (s.reg x))).advance)

/-- FX55 (R184): V0 to VX, X + 1 bytes. -/
def execStore (x : Reg) (s : State) : Host.Outcome State Fault Refusal :=
  .next (s.guarded (.store x) (rangeFault s.ea (x.val + 1)) (s.setBytes s.ea (s.regsUpTo x)).advance)

/-- FX65 (R185): V0 to VX, X + 1 bytes. -/
def execLoad (x : Reg) (s : State) : Host.Outcome State Fault Refusal :=
  .next (s.guarded (.load x) (rangeFault s.ea (x.val + 1)) (s.setRegs 0 (s.bytesAtI (x.val + 1))).advance)

end Sys2Proof.Machine
end

