-- ==== Sys2Proof/Machine/Step.lean ====
section
/-! DEFINITION. One step of the core (spec/30_encoding.md R90). -/

namespace Sys2Proof.Machine

/-- One atomic step (R90), checks in the order of R239: Faulted, awaiting key, fetch, decode, execute, finish. -/
def step (s : State) : Host.Outcome State Fault Refusal :=
  match s.status, s.wait with
  | .faulted _, _ => .next s.faultedStep
  | .running, some x => .next (s.awaitKeyStep x)
  | .running, none =>
    match s.fetch with
    | .error f => .next (s.fetchFaultStep f)
    | .ok w =>
      match decodeWord w with
      | none => .next (s.unknownStep w)
      | some i =>
        match exec i s with
        | .next t => .next (t.finish none)
        | .fault f => .fault f
        | .refused r => .refused r

/-- `s` with the table word `w` stored where the next step fetches (log entry 13): at PC, or at 0x200 where PC is above
0xFFE and no fetch could succeed; a core that is Faulted or awaiting a key would not fetch, so it is made to run. -/
def State.withFetchWord (s : State) (nbits w : Nat) : State :=
  let pc : Word := if s.pc.toNat ≤ 0xFFE then s.pc else 0x200
  { s.setBytes pc.toNat [hiByte (tableWord nbits w), loByte (tableWord nbits w)] with
    pc := pc, wait := none, status := .running }

end Sys2Proof.Machine
end

