-- ==== Sys2Proof/Machine/HostActions.lean ====
section
/-! DEFINITION. The host's actions between steps (spec/00_scope.md R12), other than the step itself (log entry 11). -/

namespace Sys2Proof.Machine

/-- Why a host action fails (R238). -/
inductive LoadError where
  /-- code 6 of R230: the image is longer than 3584 bytes -/
  | imageTooLong
deriving DecidableEq, Repr

/-- `initialize` (R260): all state, from any status, for the machine's own parameters. The count of random bytes is the
model's own and goes on, so that no byte is drawn twice (log entry 3). -/
def State.reinit (s : State) : State := { State.initial s.cfg with draws := s.draws }

/-- `load(image)` (R60): all or nothing, to 0x200 and up; no other state is touched. -/
def State.loadImage (s : State) (image : List Byte) : Except LoadError State :=
  if imageWellFormed image then .ok (s.setBytes 0x200 image) else .error .imageTooLong

/-- `set_keys(k[0..15])` (R215): all 16 slots at once. -/
def State.setKeys (s : State) (k : Vector Bool 16) : State := { s with keys := k }

/-- `clear_redraw` (R35). -/
def State.clearRedraw (s : State) : State := { s with redraw := false }

/-- `timer_tick` (R213): one tick in External mode whatever WAIT is; nothing in PerCycle mode or when Faulted. Its only
output is the beep. -/
def State.timerTick (s : State) : State :=
  match s.cfg.tickSource, s.status with
  | .external, .running => s.tick.emit none s.tickBeeps none
  | _, _ => s.emit none false none

/-- The host's actions of R12 that write state. -/
inductive HostAction where
  | reinit
  | loadImage (image : List Byte)
  | setKeys (k : Vector Bool 16)
  | clearRedraw
  | timerTick
deriving DecidableEq, Repr

/-- What a host action does. -/
def State.act (s : State) : HostAction → Except LoadError State
  | .reinit => .ok s.reinit
  | .loadImage image => s.loadImage image
  | .setKeys k => .ok (s.setKeys k)
  | .clearRedraw => .ok s.clearRedraw
  | .timerTick => .ok s.timerTick

end Sys2Proof.Machine
end

