-- ==== Sys2Proof/Safety.lean ====
section
/-! DEFINITION. The terms statements use: the parts of the state and frames over them, the states a run can be in,
and which step runs which instruction. -/

namespace Sys2Proof.Machine

/-! ## Frames -/

/-- Every part of State, one name each: a frame says which of them may change. -/
inductive Part where
  | cfg
  | mem (a : Nat)
  | v (x : Reg)
  | i
  | pc
  | sp
  | stack (j : Fin 16)
  | dt
  | st
  | keys
  | fb
  | redraw
  | wait
  | status
  | draws
  | out
deriving DecidableEq, Repr

/-- The part is the same in both states; memory and registers are compared by reading them. -/
def Part.same (s t : State) : Part → Prop
  | .cfg => t.cfg = s.cfg
  | .mem a => t.byteAt a = s.byteAt a
  | .v x => t.reg x = s.reg x
  | .i => t.i = s.i
  | .pc => t.pc = s.pc
  | .sp => t.sp = s.sp
  | .stack j => t.stack[j.val] = s.stack[j.val]
  | .dt => t.dt = s.dt
  | .st => t.st = s.st
  | .keys => t.keys = s.keys
  | .fb => t.fb = s.fb
  | .redraw => t.redraw = s.redraw
  | .wait => t.wait = s.wait
  | .status => t.status = s.status
  | .draws => t.draws = s.draws
  | .out => t.out = s.out

/-- From `s` to `t` every part outside `parts` is unchanged. -/
def ChangesOnly (s t : State) (parts : Part → Prop) : Prop := ∀ p, ¬ parts p → Part.same s t p

/-! ## Encodings -/

/-- Exactly the words of the pattern (match, mask) decode to the instructions `f` reads off them (R75, R76). -/
def DecodesExactly (p : Pattern) (f : Word → Instr) : Prop :=
  ∀ w : Word, (w &&& p.2 = p.1 → decodeWord w = some (f w)) ∧
    (w &&& p.2 ≠ p.1 → ∀ i, decodeWord w = some i → i.pattern ≠ p)

/-! ## Sprites -/

/-- The sprite of DXYN in `s` has a 1 bit at screen coordinates (px, py): byte r of MEM[I .. I+N−1] is row VY + r, its bit 7
the pixel at column VX (R102). -/
def State.SpriteBit (s : State) (x y : Reg) (n px py : Nat) : Prop :=
  (s.reg x).toNat ≤ px ∧ px < (s.reg x).toNat + 8 ∧ (s.reg y).toNat ≤ py ∧ py < (s.reg y).toNat + n ∧
    (s.byteAt (s.i.toNat + (py - (s.reg y).toNat))).getLsbD (7 - (px - (s.reg x).toNat)) = true

/-- `t` is `s` with that sprite XORed into the screen (R103, R104). -/
def State.SpriteXored (s t : State) (x y : Reg) (n : Nat) : Prop :=
  ∀ px py, px < 64 → py < 32 → (t.pixel px py = true ↔ (s.pixel px py = true ↔ ¬ s.SpriteBit x y n px py))

/-- The sprite has a 1 bit on a screen pixel that is `b`. -/
def State.SpriteMeets (s : State) (x y : Reg) (n : Nat) (b : Bool) : Prop :=
  ∃ px py, px < 64 ∧ py < 32 ∧ s.SpriteBit x y n px py ∧ s.pixel px py = b

/-! ## Destinations -/

/-- The instructions that write VF as a flag (R22). -/
def FlagWriter : Instr → Prop
  | .addReg _ _ | .subReg _ _ | .shr _ _ | .subnReg _ _ | .shl _ _ | .draw _ _ _ => True
  | .cls | .ret | .jump _ | .call _ | .seImm _ _ | .sneImm _ _ | .seReg _ _ | .ldImm _ _ | .addImm _ _ | .mov _ _
  | .orReg _ _ | .andReg _ _ | .xorReg _ _ | .sneReg _ _ | .ldI _ | .jumpV0 _ | .rnd _ _ | .skp _ | .sknp _ | .getDt _
  | .waitKey _ | .setDt _ | .setSt _ | .addI _ | .glyph _ | .bcd _ | .store _ | .load _ => False

/-- The instruction names register `r` as a destination (R21). -/
def NamesDest (r : Reg) : Instr → Prop
  | .ldImm x _ | .addImm x _ | .mov x _ | .orReg x _ | .andReg x _ | .xorReg x _ | .addReg x _ | .subReg x _ | .shr x _
  | .subnReg x _ | .shl x _ | .rnd x _ | .getDt x | .waitKey x => r = x
  | .load x => r ≤ x
  | .cls | .ret | .jump _ | .call _ | .seImm _ _ | .sneImm _ _ | .seReg _ _ | .sneReg _ _ | .ldI _ | .jumpV0 _
  | .draw _ _ _ | .skp _ | .sknp _ | .setDt _ | .setSt _ | .addI _ | .glyph _ | .bcd _ | .store _ => False

/-! ## Faults -/

/-- The fault an instruction raises in `s`, if any: the table of R230 and the conditions of R233 to R235 and R237. -/
def State.raisedBy (s : State) : Instr → Option Fault
  | .call _ => if s.sp.val = 16 then some .stackOverflow else none
  | .ret => if s.sp.val = 0 then some .stackUnderflow else none
  | .draw _ _ n =>
    if n.val ≠ 0 ∧ s.i.toNat + n.val > 0x1000 then some (.indexOutOfRange (max s.i.toNat 0x1000)) else none
  | .bcd _ => if s.i.toNat + 2 > 0xFFF then some (.indexOutOfRange (max s.i.toNat 0x1000)) else none
  | .store x | .load x => if s.i.toNat + x.val > 0xFFF then some (.indexOutOfRange (max s.i.toNat 0x1000)) else none
  | .skp x | .sknp x => if (s.reg x).toNat > 15 then some (.keyIndexOutOfRange (s.reg x)) else none
  | .cls | .jump _ | .seImm _ _ | .sneImm _ _ | .seReg _ _ | .ldImm _ _ | .addImm _ _ | .mov _ _ | .orReg _ _
  | .andReg _ _ | .xorReg _ _ | .addReg _ _ | .subReg _ _ | .shr _ _ | .subnReg _ _ | .shl _ _ | .sneReg _ _ | .ldI _
  | .jumpV0 _ | .rnd _ _ | .getDt _ | .waitKey _ | .setDt _ | .setSt _ | .addI _ | .glyph _ => none

/-- `t` is `s` after it took the fault `f` in an instruction or fetch whose word is `w`: only STATUS changed (R231, R232). -/
def Took (s t : State) (f : Fault) (w : Option Word) : Prop :=
  t.status = .faulted { fault := f, pc := s.pc, word := w } ∧ ChangesOnly s t fun p => p = .status

/-! ## What the sound timer can reach -/

/-- `t` is `s` in all but ST and the beep last emitted. -/
def State.AlikeButSound (s t : State) : Prop := { t with st := s.st, out := { t.out with beep := s.out.beep } } = s

/-! ## The states of a run -/

/-- What R230 to R237 say of a record: the fault's value is out of range, a fetch fault has no word and is the fetch's own
address, and a word is that of an instruction which raises the fault. -/
def FaultRecord.wf (r : FaultRecord) : Prop :=
  match r.word with
  | none => r.pc.toNat > 0xFFE ∧ r.fault = .indexOutOfRange (max r.pc.toNat 0x1000)
  | some w =>
    match r.fault, decodeWord w with
    | .stackOverflow, some (.call _) => True
    | .stackUnderflow, some .ret => True
    | .indexOutOfRange a, some (.draw _ _ _) => a > 0xFFF
    | .indexOutOfRange a, some (.bcd _) => a > 0xFFF
    | .indexOutOfRange a, some (.store _) => a > 0xFFF
    | .indexOutOfRange a, some (.load _) => a > 0xFFF
    | .keyIndexOutOfRange k, some (.skp _) => k.toNat > 15
    | .keyIndexOutOfRange k, some (.sknp _) => k.toNat > 15
    | _, _ => False

/-- The invariant of every run: memory is canonical; PC and the live return addresses stay in the ranges that R26 gives, so
that no PC arithmetic wraps; a waiting core is running and its PC is one it could fetch (R36, R208); a faulted
core keeps the PC of its record, and the record is one the rules can produce (R231, R232). -/
structure State.Inv (s : State) : Prop where
  memory : Memory.wf s.cfg.fontRom s.mem
  pc : s.pc.toNat ≤ 0x10FE
  live : ∀ j : Fin 16, j.val < s.sp.val → s.stack[j.val].toNat ≤ 0x1000
  waiting : s.wait.isSome → s.status = .running ∧ s.pc.toNat ≤ 0xFFE
  faulted : ∀ r, s.status = .faulted r → r.pc = s.pc ∧ r.wf

/-- A core that fetches at its next step (R90). -/
def State.Ready (s : State) : Prop := s.status = .running ∧ s.wait = none

/-- The next step of `s` fetches, decodes and executes `i` (R71, R76, R90). -/
def State.Runs (s : State) (i : Instr) : Prop := s.Ready ∧ ∃ w, s.fetch = .ok w ∧ decodeWord w = some i

end Sys2Proof.Machine
end

