-- ==== Sys2Proof/Certificates/Slice0/Obligations.lean ====
section
/-! DEFINITION. The statements for the provers. Every `def Obligations.<Name>` formalises what spec/ says; a docstring that
names a decision D<n> of spec/92_eei_decisions.md, or a passage the spec marks [derived], rests on the spec's own choice. -/

open Sys2Proof Sys2Proof.Machine

/-! ## Encoding and decoding (spec/30_encoding.md) -/

/-- Decoding an encoded instruction gives it back, with every operand at every value, from its word and from its two bytes,
high byte first, whatever bytes follow (R53, R70, R72, R74). -/
def Obligations.DecodeEncodeRoundTrip : Prop :=
  ∀ i : Instr, i.wellFormed = true ∧ decodeWord (encode i) = some i ∧
    ∀ rest, decodeBytes (hiByte (encode i) :: loByte (encode i) :: rest) = .ok (i, rest)

/-- Encoding a decoded word gives the word back: no two words decode to one instruction, not even through the ignored Y field
of 8XY6 and 8XYE. -/
def Obligations.EncodeDecodeRoundTrip : Prop :=
  ∀ (w : Word) (i : Instr), decodeWord w = some i → encode i = w

/-- A word decodes exactly when it matches a row of the opcode map, and then to an instruction of a row it matches (R75, R76,
R80; that every fixed digit must match, so that a word matching no row does not decode, is decision D6). -/
def Obligations.DecodingIsTheOpcodeMap : Prop :=
  ∀ w : Word, (decodeWord w = none ↔ ∀ p ∈ opcodeMap, w &&& p.2 ≠ p.1) ∧
    ∀ i, decodeWord w = some i → i.pattern ∈ opcodeMap ∧ w &&& i.pattern.2 = i.pattern.1

/-- The 34 patterns are pairwise disjoint: a word matches at most one row (the [derived] sentence of R75). -/
def Obligations.AtMostOneRowMatches : Prop :=
  opcodeMap.length = 34 ∧
    ∀ w : Word, ∀ p ∈ opcodeMap, ∀ q ∈ opcodeMap, w &&& p.2 = p.1 → w &&& q.2 = q.1 → p = q

/-- Words of the worked examples decode to the instructions they stand for, and the unknown words of vectors E1 to E8 to none
(that 0x01E0, 0x5121 and 0x9121 do not decode is decision D6). -/
def Obligations.WorkedExampleWordsDecode : Prop :=
  decodeWord 0x00E0 = some .cls ∧ decodeWord 0x2210 = some (.call 0x210) ∧ decodeWord 0x3310 = some (.seImm 3 0x10) ∧
    decodeWord 0x8126 = some (.shr 1 2) ∧ decodeWord 0xA300 = some (.ldI 0x300) ∧
    decodeWord 0xD012 = some (.draw 0 1 2) ∧ decodeWord 0xFA33 = some (.bcd 10) ∧ decodeWord 0xE2A1 = some (.sknp 2) ∧
    decodeWord 0x5121 = none ∧ decodeWord 0x0123 = none ∧ decodeWord 0x01E0 = none ∧ decodeWord 0x8129 = none ∧
    decodeWord 0xE0FF = none ∧ decodeWord 0xF0FF = none ∧ decodeWord 0x9121 = none ∧ decodeWord 0x0000 = none

/-! ## The cycle (spec/30_encoding.md, section 6) -/

/-- A step of a Ready core runs the instruction its fetched word decodes to, and then finishes (R90; decisions D4, D7, D19). -/
def Obligations.StepRunsDecodedInstruction : Prop :=
  ∀ (s : State) (w : Word) (i : Instr), s.Ready → s.fetch = .ok w → decodeWord w = some i →
    step s = match exec i s with
      | .next t => .next (t.finish none)
      | .fault f => .fault f
      | .refused r => .refused r

/-- What the end of a step adds to the instruction's own effect: in PerCycle mode a completed step ticks both timers once, in
External mode none; a step that faulted or waits adds nothing but its outputs (R92, R231; decisions D2, D4). -/
def Obligations.CompletedStepTicksTimersOnce : Prop :=
  ∀ (s u : State) (i : Instr), s.Runs i → exec i s = .next u → ∃ t, step s = .next t ∧
    (u.Ready → t.out.result = some .completed ∧ t.out.warning = none ∧
      (s.cfg.tickSource = .perCycle → t.dt.toNat = u.dt.toNat - 1 ∧ t.st.toNat = u.st.toNat - 1 ∧
        (t.out.beep = true ↔ u.st.toNat = 1)) ∧
      (s.cfg.tickSource = .external → t.dt = u.dt ∧ t.st = u.st ∧ t.out.beep = false) ∧
      ChangesOnly u t fun p => p = .dt ∨ p = .st ∨ p = .out) ∧
    (¬ u.Ready → t.out.beep = false ∧ t.out.warning = none ∧ ChangesOnly u t fun p => p = .out)

/-- Every step answers a next state: there is no instruction, word, mode or operand on which the model stops. That a fault is
taken as a next state, and no step ends in a fault or a refusal of the interface, is the model's choice (log entry 1, a DESIGN
CHOICE) of how to hold decision D7's Faulted status. -/
def Obligations.EveryStepAnswersNext : Prop := ∀ s : State, ∃ t, step s = .next t

/-- Each step returns exactly one status, and it agrees with STATUS and WAIT; a step that does not complete emits nothing
(R11, R90; decision D1). -/
def Obligations.StepReturnsOneStatus : Prop :=
  ∀ s t : State, step s = .next t →
    (t.Ready ∧ t.out.result = some .completed) ∨
    (t.status = .running ∧ t.wait.isSome ∧ t.out = { result := some .waiting, beep := false, warning := none }) ∨
    (∃ r, t.status = .faulted r ∧ t.out = { result := some (.faulted r.fault.code), beep := false, warning := none })

/-- Fetch reads the big-endian word at PC exactly where both its bytes exist, at odd addresses too; elsewhere the step takes
IndexOutOfRange at the lowest address that does not exist, and its record holds no word (R53, R55, R71, R232; decisions D8,
D10, D11). -/
def Obligations.FetchReadsWordOrFaults : Prop :=
  ∀ s : State,
    (s.pc.toNat ≤ 0xFFE → ∃ w, s.fetch = .ok w ∧
      w.toNat = (s.byteAt s.pc.toNat).toNat * 256 + (s.byteAt (s.pc.toNat + 1)).toNat) ∧
    (s.pc.toNat > 0xFFE → s.Ready → ∃ t, step s = .next t ∧
      t.status = .faulted { fault := .indexOutOfRange (max s.pc.toNat 0x1000), pc := s.pc, word := none } ∧
      t.out = { result := some (.faulted 4), beep := false, warning := none } ∧
      ChangesOnly s t fun p => p = .status ∨ p = .out)

/-- An unknown word emits DecodeWarning(PC, word), advances PC by 2, completes, and is no fault (R80, R236; decisions D4, D6,
D23). -/
def Obligations.UnknownWordIsNoOpWithWarning : Prop :=
  ∀ (s : State) (w : Word), s.Ready → s.fetch = .ok w → decodeWord w = none → ∃ t, step s = .next t ∧
    t.pc = s.pc + 2 ∧ t.out.result = some .completed ∧ t.out.warning = some { pc := s.pc, word := w } ∧
    (s.cfg.tickSource = .perCycle → t.dt.toNat = s.dt.toNat - 1 ∧ t.st.toNat = s.st.toNat - 1) ∧
    (s.cfg.tickSource = .external → t.dt = s.dt ∧ t.st = s.st) ∧
    ChangesOnly s t fun p => p = .pc ∨ p = .dt ∨ p = .st ∨ p = .out

/-- A step of a Faulted core changes nothing and returns Faulted with the recorded code, in any state of WAIT (R239, R243;
decision D7). -/
def Obligations.FaultedCoreStaysFaulted : Prop :=
  ∀ (s : State) (r : FaultRecord), s.status = .faulted r → ∃ t, step s = .next t ∧
    t.out = { result := some (.faulted r.fault.code), beep := false, warning := none } ∧
    ChangesOnly s t fun p => p = .out

/-- A step of a waiting core fetches nothing: with a key pressed it stores the lowest one, clears WAIT, moves PC past the FX0A
and ticks; with none pressed it changes nothing (R208, R209; decisions D4, D19). -/
def Obligations.AwaitingKeyStepPolls : Prop :=
  ∀ (s : State) (x : Reg), s.status = .running → s.wait = some x →
    (∀ k : Reg, s.key k = true → (∀ j < k, s.key j = false) → ∃ t, step s = .next t ∧
      (t.reg x).toNat = k.val ∧ t.wait = none ∧ t.pc = s.pc + 2 ∧ t.out.result = some .completed ∧
      (s.cfg.tickSource = .perCycle → t.dt.toNat = s.dt.toNat - 1 ∧ t.st.toNat = s.st.toNat - 1) ∧
      (s.cfg.tickSource = .external → t.dt = s.dt ∧ t.st = s.st) ∧
      ChangesOnly s t fun p => p = .v x ∨ p = .wait ∨ p = .pc ∨ p = .dt ∨ p = .st ∨ p = .out) ∧
    ((∀ k : Reg, s.key k = false) → ∃ t, step s = .next t ∧
      t.out = { result := some .waiting, beep := false, warning := none } ∧ ChangesOnly s t fun p => p = .out)

/-- R211: a tick takes each timer that is above zero down by one, leaves a zero timer alone, and beeps exactly when ST goes
from 1 to 0. -/
def Obligations.TimerTickCountsDown : Prop :=
  ∀ s : State,
    (s.dt.toNat > 0 → s.tick.dt.toNat + 1 = s.dt.toNat) ∧ (s.dt.toNat = 0 → s.tick.dt.toNat = 0) ∧
    (s.st.toNat > 0 → s.tick.st.toNat + 1 = s.st.toNat) ∧ (s.st.toNat = 0 → s.tick.st.toNat = 0) ∧
    (s.tickBeeps = true ↔ s.st.toNat = 1 ∧ s.tick.st.toNat = 0) ∧ ChangesOnly s s.tick fun p => p = .dt ∨ p = .st

/-- Any step, of a decoded instruction, of an unknown word, of a core that waits or has faulted, beeps exactly when it completes
in PerCycle mode and the sound timer its tick meets (VX after an FX18) is 1: a write of ST, a wait or a fault never beeps (R80,
R92, R206, R208, R212, R231; decisions D2, D4, D20). -/
def Obligations.BeepOnlyWhenTickReachesZero : Prop :=
  ∀ s t : State, step s = .next t →
    (t.out.beep = true ↔ s.cfg.tickSource = .perCycle ∧ t.out.result = some .completed ∧
      (∀ x, s.Runs (.setSt x) → (s.reg x).toNat = 1) ∧ ((∀ x, ¬ s.Runs (.setSt x)) → s.st.toNat = 1))

/-! ## Invariants -/

/-- The invariant holds after initialize, for every FONT_ROM and tick source, and at reset. -/
def Obligations.InvariantHoldsAtReset : Prop := (∀ c : Config, (State.initial c).Inv) ∧ State.reset.Inv

/-- Every step keeps the invariant: memory stays canonical, no PC arithmetic ever wraps (the [derived] rule R26), a waiting core
is running and its PC is one that can be fetched, and a fault record is one the rules can produce. -/
def Obligations.EveryStepKeepsInvariant : Prop := ∀ s t : State, s.Inv → step s = .next t → t.Inv

/-- Every host action that succeeds keeps the invariant (R12; decision D1). -/
def Obligations.HostActionsKeepInvariant : Prop :=
  ∀ (s t : State) (a : HostAction), s.Inv → s.act a = .ok t → t.Inv

/-- Two canonical memories that read alike at every address are the same data (log entry 8, a DESIGN CHOICE of the model). -/
def Obligations.CanonicalMemoriesReadAlikeAreEqual : Prop :=
  ∀ (font : Font) (m m' : Memory), Memory.wf font m → Memory.wf font m' →
    (∀ a, Memory.read font m a = Memory.read font m' a) → m = m'

/-! ## Faults (spec/60_exceptions.md) -/

/-- A step that ends Faulted from Running made no write of its own: only STATUS and the outputs changed, PC still holds the
faulting address, and the record holds it, with the fetched word where there was one (R231, R232, R241; decisions D7, D32). -/
def Obligations.FaultsArePrecise : Prop :=
  ∀ (s t : State) (r : FaultRecord), s.status = .running → step s = .next t → t.status = .faulted r →
    ChangesOnly s t (fun p => p = .status ∨ p = .out) ∧ r.pc = s.pc ∧
    (∀ w, s.fetch = .ok w → r.word = some w) ∧ (∀ f, s.fetch = .error f → r.word = none ∧ r.fault = f)

/-- Every instruction raises its fault exactly on its condition, records it with its own word, and otherwise leaves STATUS
alone; the record's code and value are those of R230 and R232 (R230 to R237, R239; decisions D7, D8, D13, D18, D32). -/
def Obligations.InstructionsFaultExactlyOnTheirCondition : Prop :=
  (∀ (s : State) (i : Instr), ∃ t, exec i s = .next t ∧
    (∀ f, s.raisedBy i = some f → Took s t f (some (encode i))) ∧ (s.raisedBy i = none → t.status = s.status)) ∧
  Fault.stackOverflow.code = 2 ∧ Fault.stackOverflow.value = 16 ∧ Fault.stackUnderflow.code = 3 ∧
  Fault.stackUnderflow.value = 0 ∧ (∀ a, (Fault.indexOutOfRange a).code = 4 ∧ (Fault.indexOutOfRange a).value = a) ∧
  (∀ k, (Fault.keyIndexOutOfRange k).code = 5 ∧ (Fault.keyIndexOutOfRange k).value = k.toNat)

/-! ## Display (spec/40_display.md) -/

/-- R100: 00E0 blanks every pixel, sets the redraw flag and advances PC; nothing else changes, in any state. -/
def Obligations.ClearScreenBlanksEveryPixel : Prop :=
  DecodesExactly (0x00E0, 0xFFFF) (fun _ => .cls) ∧
  ∀ s : State, ∃ t, exec .cls s = .next t ∧ (∀ x y, x < 64 → y < 32 → t.pixel x y = false) ∧ t.redraw = true ∧
    t.pc = s.pc + 2 ∧ ChangesOnly s t fun p => p = .fb ∨ p = .redraw ∨ p = .pc

/-- DXYN whose sprite bytes all exist XORs the sprite into the screen with clipping, leaves the collision in VF (last, even when
X or Y is F), sets the redraw flag and advances PC; N = 0 draws nothing and never faults (R101 to R106; decisions D8, D14,
D15). -/
def Obligations.DrawXorsClippedSprite : Prop :=
  DecodesExactly (0xD000, 0xF000) (fun w => .draw (fieldX w) (fieldY w) (fieldN w)) ∧
  ∀ (s : State) (x y : Reg) (n : Fin 16), (n.val = 0 ∨ s.i.toNat + n.val ≤ 0x1000) →
    ∃ t, exec (.draw x y n) s = .next t ∧ s.SpriteXored t x y n.val ∧
      (s.SpriteMeets x y n.val true → t.reg regF = 1) ∧ (¬ s.SpriteMeets x y n.val true → t.reg regF = 0) ∧
      t.redraw = true ∧ t.pc = s.pc + 2 ∧
      ChangesOnly s t fun p => p = .fb ∨ p = .redraw ∨ p = .v regF ∨ p = .pc

/-- Drawing the same sprite twice at the same place restores the screen, and the second collision flag says whether the first
draw turned a visible pixel on (the [derived] clause of R103). -/
def Obligations.DrawingTwiceRestoresScreen : Prop :=
  ∀ (s t u : State) (x y : Reg) (n : Fin 16), (n.val = 0 ∨ s.i.toNat + n.val ≤ 0x1000) →
    exec (.draw x y n) s = .next t → t.reg x = s.reg x → t.reg y = s.reg y → exec (.draw x y n) t = .next u →
    u.fb = s.fb ∧ (u.reg regF = 1 ↔ s.SpriteMeets x y n.val false)

/-- R34: a step changes the framebuffer only by 00E0, which blanks it, or by a DXYN that does not fault, which XORs its sprite
as decisions D8 and D14 say; the host only reads it, but for initialize. -/
def Obligations.OnlyClearAndDrawChangeFramebuffer : Prop :=
  (∀ s t : State, step s = .next t →
    (¬ s.Runs .cls → (∀ x y n, ¬ s.Runs (.draw x y n)) → t.fb = s.fb) ∧
    (s.Runs .cls → ∀ x y, x < 64 → y < 32 → t.pixel x y = false) ∧
    (∀ x y n, s.Runs (.draw x y n) → (t.status = .running → s.SpriteXored t x y n.val) ∧
      (t.status ≠ .running → t.fb = s.fb))) ∧
  ∀ (s t : State) (a : HostAction), a ≠ .reinit → s.act a = .ok t → t.fb = s.fb

/-- A step writes the redraw flag only by 00E0 and by a DXYN that does not fault, which set it; `clear_redraw` clears it and
touches nothing else (R35, R105; decisions D15, D22). -/
def Obligations.RedrawIsSetByDrawingAndClearedByHost : Prop :=
  (∀ s t : State, step s = .next t →
    (¬ s.Runs .cls → (∀ x y n, ¬ s.Runs (.draw x y n)) → t.redraw = s.redraw) ∧ (s.Runs .cls → t.redraw = true) ∧
    (∀ x y n, s.Runs (.draw x y n) → (t.status = .running → t.redraw = true) ∧
      (t.status ≠ .running → t.redraw = s.redraw))) ∧
  ∀ s : State, ∃ t, s.act .clearRedraw = .ok t ∧ t.redraw = false ∧ ChangesOnly s t fun p => p = .redraw

/-! ## Control transfer and skips (spec/41_control_flow.md) -/

/-- R121: 00EE pops PC from the stack, with no further advance and the popped entry kept, and a popped address above 0xFFE fails
at the next fetch; with SP = 0 it takes StackUnderflow, SP and PC unchanged (that the entry is kept is decision D30). -/
def Obligations.ReturnPopsProgramCounter : Prop :=
  DecodesExactly (0x00EE, 0xFFFF) (fun _ => .ret) ∧
  ∀ s : State,
    (∀ j : Fin 16, s.sp.val = j.val + 1 → ∃ t, exec .ret s = .next t ∧ t.sp.val = j.val ∧ t.pc = s.stack[j.val] ∧
      (s.stack[j.val].toNat > 0xFFE → t.fetch = .error (.indexOutOfRange (max s.stack[j.val].toNat 0x1000))) ∧
      ChangesOnly s t fun p => p = .sp ∨ p = .pc) ∧
    (s.sp.val = 0 → ∃ t, exec .ret s = .next t ∧ Took s t .stackUnderflow (some 0x00EE))

/-- R122: 1NNN writes PC alone; a jump to 0xFFF fails at the next fetch, and a step of a jump to itself completes where it
stands and, in PerCycle mode, ticks the timers. -/
def Obligations.JumpSetsProgramCounter : Prop :=
  DecodesExactly (0x1000, 0xF000) (fun w => .jump (fieldNNN w)) ∧
  ∀ (s : State) (nnn : BitVec 12), ∃ t, exec (.jump nnn) s = .next t ∧ t.pc.toNat = nnn.toNat ∧
    (nnn = 0xFFF → t.fetch = .error (.indexOutOfRange 0x1000)) ∧
    (s.Runs (.jump nnn) → s.pc.toNat = nnn.toNat → ∃ u, step s = .next u ∧ u.pc = s.pc ∧ u.out.result = some .completed ∧
      (s.cfg.tickSource = .perCycle → u.dt.toNat = s.dt.toNat - 1 ∧ u.st.toNat = s.st.toNat - 1)) ∧
    ChangesOnly s t fun p => p = .pc

/-- 2NNN pushes PC + 2 and jumps; with SP = 16 it takes StackOverflow, STACK, SP and PC unchanged (R123; decision D5). -/
def Obligations.CallPushesReturnAddress : Prop :=
  DecodesExactly (0x2000, 0xF000) (fun w => .call (fieldNNN w)) ∧
  ∀ (s : State) (nnn : BitVec 12),
    (∀ j : Fin 16, s.sp.val = j.val → ∃ t, exec (.call nnn) s = .next t ∧ t.stack[j.val] = s.pc + 2 ∧
      t.sp.val = j.val + 1 ∧ t.pc.toNat = nnn.toNat ∧
      ChangesOnly s t fun p => p = .stack j ∨ p = .sp ∨ p = .pc) ∧
    (s.sp.val = 16 → ∃ t, exec (.call nnn) s = .next t ∧ Took s t .stackOverflow (some (encode (.call nnn))))

/-- R124, R125: 3XNN and 4XNN skip on equal, and on unequal, to the immediate; they write PC alone. -/
def Obligations.SkipOnImmediate : Prop :=
  DecodesExactly (0x3000, 0xF000) (fun w => .seImm (fieldX w) (fieldNN w)) ∧
  DecodesExactly (0x4000, 0xF000) (fun w => .sneImm (fieldX w) (fieldNN w)) ∧
  ∀ (s : State) (x : Reg) (nn : Byte),
    (∃ t, exec (.seImm x nn) s = .next t ∧ (s.reg x = nn → t.pc = s.pc + 4) ∧ (s.reg x ≠ nn → t.pc = s.pc + 2) ∧
      ChangesOnly s t fun p => p = .pc) ∧
    (∃ t, exec (.sneImm x nn) s = .next t ∧ (s.reg x ≠ nn → t.pc = s.pc + 4) ∧ (s.reg x = nn → t.pc = s.pc + 2) ∧
      ChangesOnly s t fun p => p = .pc)

/-- R126, R127: 5XY0 and 9XY0 skip on equal, and on different, registers (so X = Y always, and never, skips); they write PC
alone, and with a low nibble other than 0 the word is unknown. -/
def Obligations.SkipOnRegisters : Prop :=
  DecodesExactly (0x5000, 0xF00F) (fun w => .seReg (fieldX w) (fieldY w)) ∧
  DecodesExactly (0x9000, 0xF00F) (fun w => .sneReg (fieldX w) (fieldY w)) ∧
  (∀ w : Word, (w &&& 0xF000 = 0x5000 ∨ w &&& 0xF000 = 0x9000) → w &&& 0xF ≠ 0 → decodeWord w = none) ∧
  ∀ (s : State) (x y : Reg),
    (∃ t, exec (.seReg x y) s = .next t ∧ (s.reg x = s.reg y → t.pc = s.pc + 4) ∧
      (s.reg x ≠ s.reg y → t.pc = s.pc + 2) ∧ ChangesOnly s t fun p => p = .pc) ∧
    (∃ t, exec (.sneReg x y) s = .next t ∧ (s.reg x ≠ s.reg y → t.pc = s.pc + 4) ∧
      (s.reg x = s.reg y → t.pc = s.pc + 2) ∧ ChangesOnly s t fun p => p = .pc)

/-- BNNN jumps to NNN + V0, never reduced to 12 bits and never wrapped; it writes PC alone (R128; decision D10). -/
def Obligations.JumpWithOffsetAddsV0 : Prop :=
  DecodesExactly (0xB000, 0xF000) (fun w => .jumpV0 (fieldNNN w)) ∧
  ∀ (s : State) (nnn : BitVec 12), ∃ t, exec (.jumpV0 nnn) s = .next t ∧
    t.pc.toNat = nnn.toNat + (s.reg 0).toNat ∧ ChangesOnly s t fun p => p = .pc

/-- R27: 2NNN writes STACK[SP] and then increments SP, 00EE decrements SP and then reads STACK[SP] into PC, a call with SP = 16
and a return with SP = 0 take their faults and leave both alone, and no other step changes the stack or SP
(the value pushed is decision D5). -/
def Obligations.StackChangesOnlyByCallAndReturn : Prop :=
  ∀ s t : State, step s = .next t →
    ((∀ nnn, ¬ s.Runs (.call nnn)) → t.stack = s.stack ∧ (¬ s.Runs .ret → t.sp = s.sp)) ∧
    (∀ nnn, s.Runs (.call nnn) →
      (∀ j : Fin 16, s.sp.val = j.val → t.sp.val = j.val + 1 ∧ t.stack[j.val] = s.pc + 2 ∧
        ∀ k : Fin 16, k ≠ j → t.stack[k.val] = s.stack[k.val]) ∧
      (s.sp.val = 16 → t.sp = s.sp ∧ t.stack = s.stack ∧ ∃ r, t.status = .faulted r ∧ r.fault = .stackOverflow)) ∧
    (s.Runs .ret →
      (∀ j : Fin 16, s.sp.val = j.val + 1 → t.sp.val = j.val ∧ t.pc = s.stack[j.val]) ∧
      (s.sp.val = 0 → t.sp = s.sp ∧ t.pc = s.pc ∧ ∃ r, t.status = .faulted r ∧ r.fault = .stackUnderflow))

/-- A return that finds the stack as a call left it lands after the call, with SP as before it, whatever else the subroutine did
(§8's property, realised by R121 and R123; decision D5). -/
def Obligations.CallThenReturnLandsAfterCall : Prop :=
  ∀ (s t u : State) (nnn : BitVec 12), s.sp.val < 16 → exec (.call nnn) s = .next t → u.stack = t.stack → u.sp = t.sp →
    ∃ r, exec .ret u = .next r ∧ r.pc = s.pc + 2 ∧ r.sp = s.sp

/-! ## Register arithmetic, logic, shifts and random (spec/42_alu.md) -/

/-- R151, R153: 6XNN writes the byte, 8XY0 copies VY, into VX (VF included, as data); besides VX only PC changes. -/
def Obligations.LoadImmediateAndCopy : Prop :=
  DecodesExactly (0x6000, 0xF000) (fun w => .ldImm (fieldX w) (fieldNN w)) ∧
  DecodesExactly (0x8000, 0xF00F) (fun w => .mov (fieldX w) (fieldY w)) ∧
  ∀ (s : State) (x y : Reg) (nn : Byte),
    (∃ t, exec (.ldImm x nn) s = .next t ∧ t.reg x = nn ∧ t.pc = s.pc + 2 ∧
      ChangesOnly s t fun p => p = .v x ∨ p = .pc) ∧
    (∃ t, exec (.mov x y) s = .next t ∧ t.reg x = s.reg y ∧ t.pc = s.pc + 2 ∧
      ChangesOnly s t fun p => p = .v x ∨ p = .pc)

/-- R152: 7XNN adds modulo 256 and writes no flag (the latter is decision D28). -/
def Obligations.AddImmediateWrapsWithoutFlag : Prop :=
  DecodesExactly (0x7000, 0xF000) (fun w => .addImm (fieldX w) (fieldNN w)) ∧
  ∀ (s : State) (x : Reg) (nn : Byte), ∃ t, exec (.addImm x nn) s = .next t ∧
    (t.reg x).toNat = ((s.reg x).toNat + nn.toNat) % 256 ∧ t.pc = s.pc + 2 ∧
    ChangesOnly s t fun p => p = .v x ∨ p = .pc

/-- R154, R155, R156: the three bitwise instructions, none of which resets VF (decision D28). -/
def Obligations.BitwiseInstructionsWriteNoFlag : Prop :=
  DecodesExactly (0x8001, 0xF00F) (fun w => .orReg (fieldX w) (fieldY w)) ∧
  DecodesExactly (0x8002, 0xF00F) (fun w => .andReg (fieldX w) (fieldY w)) ∧
  DecodesExactly (0x8003, 0xF00F) (fun w => .xorReg (fieldX w) (fieldY w)) ∧
  ∀ (s : State) (x y : Reg),
    (∃ t, exec (.orReg x y) s = .next t ∧ t.reg x = s.reg x ||| s.reg y ∧ t.pc = s.pc + 2 ∧
      ChangesOnly s t fun p => p = .v x ∨ p = .pc) ∧
    (∃ t, exec (.andReg x y) s = .next t ∧ t.reg x = s.reg x &&& s.reg y ∧ t.pc = s.pc + 2 ∧
      ChangesOnly s t fun p => p = .v x ∨ p = .pc) ∧
    (∃ t, exec (.xorReg x y) s = .next t ∧ t.reg x = s.reg x ^^^ s.reg y ∧ t.pc = s.pc + 2 ∧
      ChangesOnly s t fun p => p = .v x ∨ p = .pc)

/-- R157, R158: 8XY4 and 8XY5 write the sum and the difference modulo 256 into VX and then the carry and the not-borrow, of the
operands as they were, into VF, which is what VF holds even when X or Y is F. -/
def Obligations.AddAndSubtractSetFlagLast : Prop :=
  DecodesExactly (0x8004, 0xF00F) (fun w => .addReg (fieldX w) (fieldY w)) ∧
  DecodesExactly (0x8005, 0xF00F) (fun w => .subReg (fieldX w) (fieldY w)) ∧
  ∀ (s : State) (x y : Reg),
    (∃ t, exec (.addReg x y) s = .next t ∧
      (x ≠ regF → (t.reg x).toNat = ((s.reg x).toNat + (s.reg y).toNat) % 256) ∧
      ((s.reg x).toNat + (s.reg y).toNat > 255 → t.reg regF = 1) ∧
      ((s.reg x).toNat + (s.reg y).toNat ≤ 255 → t.reg regF = 0) ∧ t.pc = s.pc + 2 ∧
      ChangesOnly s t fun p => p = .v x ∨ p = .v regF ∨ p = .pc) ∧
    (∃ t, exec (.subReg x y) s = .next t ∧
      (x ≠ regF → (t.reg x).toNat = ((s.reg x).toNat + 256 - (s.reg y).toNat) % 256) ∧
      ((s.reg x).toNat < (s.reg y).toNat → t.reg regF = 0) ∧
      ((s.reg y).toNat ≤ (s.reg x).toNat → t.reg regF = 1) ∧ t.pc = s.pc + 2 ∧
      ChangesOnly s t fun p => p = .v x ∨ p = .v regF ∨ p = .pc)

/-- R159, R161: 8XY6 and 8XYE shift VX by one whatever Y is, VY neither read nor written, and leave the bit shifted out in VF,
even when X is F. -/
def Obligations.ShiftsIgnoreYAndSetFlagLast : Prop :=
  DecodesExactly (0x8006, 0xF00F) (fun w => .shr (fieldX w) (fieldY w)) ∧
  DecodesExactly (0x800E, 0xF00F) (fun w => .shl (fieldX w) (fieldY w)) ∧
  ∀ (s : State) (x y : Reg),
    (∃ t, exec (.shr x y) s = .next t ∧ (x ≠ regF → (t.reg x).toNat = (s.reg x).toNat / 2) ∧
      (t.reg regF).toNat = (s.reg x).toNat % 2 ∧ t.pc = s.pc + 2 ∧
      ChangesOnly s t fun p => p = .v x ∨ p = .v regF ∨ p = .pc) ∧
    (∃ t, exec (.shl x y) s = .next t ∧ (x ≠ regF → (t.reg x).toNat = (s.reg x).toNat * 2 % 256) ∧
      (t.reg regF).toNat = (s.reg x).toNat / 128 ∧ t.pc = s.pc + 2 ∧
      ChangesOnly s t fun p => p = .v x ∨ p = .v regF ∨ p = .pc)

/-- 8XY7 writes VY − VX modulo 256 and then the not-borrow, borrow being VY < VX (R160's [derived] reading). -/
def Obligations.ReverseSubtractSetsFlagLast : Prop :=
  DecodesExactly (0x8007, 0xF00F) (fun w => .subnReg (fieldX w) (fieldY w)) ∧
  ∀ (s : State) (x y : Reg), ∃ t, exec (.subnReg x y) s = .next t ∧
    (x ≠ regF → (t.reg x).toNat = ((s.reg y).toNat + 256 - (s.reg x).toNat) % 256) ∧
    ((s.reg y).toNat < (s.reg x).toNat → t.reg regF = 0) ∧
    ((s.reg x).toNat ≤ (s.reg y).toNat → t.reg regF = 1) ∧ t.pc = s.pc + 2 ∧
    ChangesOnly s t fun p => p = .v x ∨ p = .v regF ∨ p = .pc

/-- CXNN writes the step's random byte, masked. The byte is the free value of log entry 3 (a DESIGN CHOICE): it holds for every
value of it, and the next CXNN receives another (R165, R166; decision D16). -/
def Obligations.RandomByteIsMasked : Prop :=
  DecodesExactly (0xC000, 0xF000) (fun w => .rnd (fieldX w) (fieldNN w)) ∧
  ∀ (s : State) (x : Reg) (nn : Byte), ∃ t, exec (.rnd x nn) s = .next t ∧
    t.reg x = Config.rndByte s.draws &&& nn ∧ (nn = 0 → t.reg x = 0) ∧ t.draws = s.draws + 1 ∧ t.pc = s.pc + 2 ∧
    ChangesOnly s t fun p => p = .v x ∨ p = .draws ∨ p = .pc

/-- An instruction that is no flag writer and does not name VF as a destination leaves VF alone (the last sentences of R22; that
unknown words, fetches and waits leave it alone too is said by their own statements). -/
def Obligations.OnlyFlagWritersChangeVfImplicitly : Prop :=
  ∀ (i : Instr) (s t : State), exec i s = .next t → ¬ FlagWriter i → ¬ NamesDest regF i → t.reg regF = s.reg regF

/-! ## Index register and memory instructions (spec/43_index_memory.md) -/

/-- R180: ANNN writes the address, so I's top 4 bits become 0. -/
def Obligations.LoadIndexWritesAddress : Prop :=
  DecodesExactly (0xA000, 0xF000) (fun w => .ldI (fieldNNN w)) ∧
  ∀ (s : State) (nnn : BitVec 12), ∃ t, exec (.ldI nnn) s = .next t ∧ t.i.toNat = nnn.toNat ∧ t.pc = s.pc + 2 ∧
    ChangesOnly s t fun p => p = .i ∨ p = .pc

/-- FX1E adds VX to I modulo 65536 and FX29 writes 5·VX unmasked; neither writes VF nor checks an address (R181, R182; decisions
D8, D9, D29). -/
def Obligations.IndexArithmeticIsUnchecked : Prop :=
  DecodesExactly (0xF01E, 0xF0FF) (fun w => .addI (fieldX w)) ∧
  DecodesExactly (0xF029, 0xF0FF) (fun w => .glyph (fieldX w)) ∧
  ∀ (s : State) (x : Reg),
    (∃ t, exec (.addI x) s = .next t ∧ t.i.toNat = (s.i.toNat + (s.reg x).toNat) % 65536 ∧ t.pc = s.pc + 2 ∧
      ChangesOnly s t fun p => p = .i ∨ p = .pc) ∧
    (∃ t, exec (.glyph x) s = .next t ∧ t.i.toNat = (s.reg x).toNat * 5 ∧ t.pc = s.pc + 2 ∧
      ChangesOnly s t fun p => p = .i ∨ p = .pc)

/-- FX33 whose three cells exist stores the decimal digits of VX, hundreds first, at I; only those three bytes and PC change
(R183; decision D8). The digits read back where memory is canonical, which is part of the invariant. -/
def Obligations.BcdStoresThreeDigits : Prop :=
  DecodesExactly (0xF033, 0xF0FF) (fun w => .bcd (fieldX w)) ∧
  ∀ (s : State) (x : Reg), s.i.toNat + 2 ≤ 0xFFF → ∃ t, exec (.bcd x) s = .next t ∧ t.pc = s.pc + 2 ∧
    (Memory.wf s.cfg.fontRom s.mem →
      (t.byteAt s.ea).toNat = (s.reg x).toNat / 100 ∧ (t.byteAt (s.ea + 1)).toNat = (s.reg x).toNat / 10 % 10 ∧
      (t.byteAt (s.ea + 2)).toNat = (s.reg x).toNat % 10) ∧
    ChangesOnly s t fun p => p = .pc ∨ ∃ k < 3, p = .mem (s.ea + k)

/-- FX55 whose cells exist stores V0 to VX, X + 1 bytes, at I; only those bytes and PC change, I included in what does not
(R184; decision D8). -/
def Obligations.StoreWritesRegistersUpToX : Prop :=
  DecodesExactly (0xF055, 0xF0FF) (fun w => .store (fieldX w)) ∧
  ∀ (s : State) (x : Reg), s.i.toNat + x.val ≤ 0xFFF → ∃ t, exec (.store x) s = .next t ∧ t.pc = s.pc + 2 ∧
    (Memory.wf s.cfg.fontRom s.mem → ∀ k : Reg, k ≤ x → t.byteAt (s.ea + k.val) = s.reg k) ∧
    ChangesOnly s t fun p => p = .pc ∨ ∃ k ≤ x.val, p = .mem (s.ea + k)

/-- FX65 whose cells exist loads V0 to VX from I; only those registers and PC change, every byte of memory is as before (R185;
decision D8). -/
def Obligations.LoadReadsRegistersUpToX : Prop :=
  DecodesExactly (0xF065, 0xF0FF) (fun w => .load (fieldX w)) ∧
  ∀ (s : State) (x : Reg), s.i.toNat + x.val ≤ 0xFFF → ∃ t, exec (.load x) s = .next t ∧ t.pc = s.pc + 2 ∧
    (∀ k : Reg, k ≤ x → t.reg k = s.byteAt (s.ea + k.val)) ∧
    ChangesOnly s t fun p => p = .pc ∨ ∃ k ≤ x, p = .v k

/-- FX55, and then FX65 with the same X and I in any state that still has its memory, restores V0 to VX (§8's property; R184,
R185; decision D8). -/
def Obligations.StoreThenLoadRestoresRegisters : Prop :=
  ∀ (s t u r : State) (x : Reg), Memory.wf s.cfg.fontRom s.mem → s.i.toNat + x.val ≤ 0xFFF →
    exec (.store x) s = .next t → u.mem = t.mem → u.cfg = t.cfg → u.i = s.i → exec (.load x) u = .next r →
    ∀ k : Reg, k ≤ x → r.reg k = s.reg k

/-- A word that FX55 stored is the word fetched at its address by the very next step, and by any later one that finds the memory
unchanged (R61, R272; decision D25). -/
def Obligations.StoredWordIsFetched : Prop :=
  ∀ (s t u : State) (x k j : Reg), Memory.wf s.cfg.fontRom s.mem → s.i.toNat + x.val ≤ 0xFFF →
    exec (.store x) s = .next t → j.val = k.val + 1 → j ≤ x → u.mem = t.mem → u.cfg = t.cfg →
    u.pc.toNat = s.i.toNat + k.val → u.fetch = .ok (wordOfBytes (s.reg k) (s.reg j))

/-- A step changes a byte of memory only by FX33 or FX55, within the bytes they store, and I only by ANNN, FX1E and FX29 (R50,
R24, R186; 90_conflicts.md C5; decision D8). -/
def Obligations.OnlyStoresChangeMemoryAndIndexWritersI : Prop :=
  ∀ s t : State, step s = .next t →
    (∀ a, t.byteAt a ≠ s.byteAt a →
      (∃ x, s.Runs (.bcd x) ∧ s.ea ≤ a ∧ a ≤ s.ea + 2 ∧ a ≤ 0xFFF) ∨
      (∃ x, s.Runs (.store x) ∧ s.ea ≤ a ∧ a ≤ s.ea + x.val ∧ a ≤ 0xFFF)) ∧
    (t.i ≠ s.i → (∃ nnn, s.Runs (.ldI nnn)) ∨ (∃ x, s.Runs (.addI x)) ∨ ∃ x, s.Runs (.glyph x))

/-! ## Keys and timers (spec/44_timers_input.md) -/

/-- EX9E and EXA1 skip on key VX pressed, and not pressed, for VX in 0 to 15, and write PC alone; for VX above 15 they take
KeyIndexOutOfRange (R200, R201, R202; decision D13). -/
def Obligations.SkipOnKey : Prop :=
  DecodesExactly (0xE09E, 0xF0FF) (fun w => .skp (fieldX w)) ∧
  DecodesExactly (0xE0A1, 0xF0FF) (fun w => .sknp (fieldX w)) ∧
  ∀ (s : State) (x : Reg),
    (∀ k : Reg, (s.reg x).toNat = k.val →
      (∃ t, exec (.skp x) s = .next t ∧ (s.key k = true → t.pc = s.pc + 4) ∧ (s.key k = false → t.pc = s.pc + 2) ∧
        ChangesOnly s t fun p => p = .pc) ∧
      (∃ t, exec (.sknp x) s = .next t ∧ (s.key k = false → t.pc = s.pc + 4) ∧ (s.key k = true → t.pc = s.pc + 2) ∧
        ChangesOnly s t fun p => p = .pc)) ∧
    ((s.reg x).toNat > 15 →
      (∃ t, exec (.skp x) s = .next t ∧ Took s t (.keyIndexOutOfRange (s.reg x)) (some (encode (.skp x)))) ∧
      (∃ t, exec (.sknp x) s = .next t ∧ Took s t (.keyIndexOutOfRange (s.reg x)) (some (encode (.sknp x)))))

/-- R203: FX07 reads DT as it is before the tick of its own step, which in PerCycle mode then counts DT down
(decisions D2, D4). -/
def Obligations.ReadDelayTimerBeforeTick : Prop :=
  DecodesExactly (0xF007, 0xF0FF) (fun w => .getDt (fieldX w)) ∧
  ∀ (s : State) (x : Reg),
    (∃ t, exec (.getDt x) s = .next t ∧ t.reg x = s.dt ∧ t.pc = s.pc + 2 ∧
      ChangesOnly s t fun p => p = .v x ∨ p = .pc) ∧
    (s.Runs (.getDt x) → ∃ t, step s = .next t ∧ t.reg x = s.dt ∧
      (s.cfg.tickSource = .perCycle → t.dt.toNat = s.dt.toNat - 1))

/-- FX15 and FX18 write their timer alone and emit no beep; in PerCycle mode the same step's tick follows, so FX18 with VX = 1
ends with ST = 0 and a beep, and FX18 with VX = 0 silences a running timer without one (R205, R206 and their [derived] corner
cases). -/
def Obligations.SetTimersThenTick : Prop :=
  DecodesExactly (0xF015, 0xF0FF) (fun w => .setDt (fieldX w)) ∧
  DecodesExactly (0xF018, 0xF0FF) (fun w => .setSt (fieldX w)) ∧
  ∀ (s : State) (x : Reg),
    (∃ t, exec (.setDt x) s = .next t ∧ t.dt = s.reg x ∧ t.pc = s.pc + 2 ∧
      ChangesOnly s t fun p => p = .dt ∨ p = .pc) ∧
    (∃ t, exec (.setSt x) s = .next t ∧ t.st = s.reg x ∧ t.pc = s.pc + 2 ∧
      ChangesOnly s t fun p => p = .st ∨ p = .pc) ∧
    (s.Runs (.setDt x) → ∃ t, step s = .next t ∧
      (s.cfg.tickSource = .perCycle → t.dt.toNat = (s.reg x).toNat - 1) ∧
      (s.cfg.tickSource = .external → t.dt = s.reg x)) ∧
    (s.Runs (.setSt x) → ∃ t, step s = .next t ∧
      (s.cfg.tickSource = .perCycle → t.st.toNat = (s.reg x).toNat - 1 ∧ (t.out.beep = true ↔ (s.reg x).toNat = 1)) ∧
      (s.cfg.tickSource = .external → t.st = s.reg x ∧ t.out.beep = false))

/-- FX0A stores the lowest pressed key at once, without an edge; with no key pressed it only enters the awaiting-key sub-state, PC
unchanged (R204; decisions D4, D19). -/
def Obligations.WaitKeyStoresLowestOrWaits : Prop :=
  DecodesExactly (0xF00A, 0xF0FF) (fun w => .waitKey (fieldX w)) ∧
  ∀ (s : State) (x : Reg),
    (∀ k : Reg, s.key k = true → (∀ j < k, s.key j = false) → ∃ t, exec (.waitKey x) s = .next t ∧
      (t.reg x).toNat = k.val ∧ t.pc = s.pc + 2 ∧ ChangesOnly s t fun p => p = .v x ∨ p = .pc) ∧
    ((∀ k : Reg, s.key k = false) → ∃ t, exec (.waitKey x) s = .next t ∧ t.wait = some x ∧
      ChangesOnly s t fun p => p = .wait)

/-- R215: `set_keys` overwrites all 16 slots and nothing else; no step writes a slot, and no other host action but
initialize does. -/
def Obligations.InputLatchIsWrittenByHostAlone : Prop :=
  (∀ s t : State, step s = .next t → t.keys = s.keys) ∧
  (∀ (s : State) (k : Vector Bool 16), ∃ t, s.act (.setKeys k) = .ok t ∧ (∀ j : Reg, t.key j = k[j.val]) ∧
    ChangesOnly s t fun p => p = .keys) ∧
  ∀ (s t : State) (a : HostAction), a ≠ .reinit → (∀ k, a ≠ .setKeys k) → s.act a = .ok t → t.keys = s.keys

/-- ST has no effect but the beep: two cores alike in all but ST and the emitted beep are so again after a step, and hence after
any number of steps, so no program can read ST (R30, R210). -/
def Obligations.SoundTimerIsUnobservable : Prop :=
  ∀ s t u : State, s.AlikeButSound t → step s = .next u → ∃ v, step t = .next v ∧ u.AlikeButSound v

/-! ## Host actions and reset (spec/00_scope.md R12, spec/20_memory.md, spec/70_reset_and_hazards.md) -/

/-- `load` of an image of at most 3584 bytes puts it at 0x200 and touches nothing else; a longer one fails with LoadError (R60,
R238; decision D21). The bytes read back where memory is canonical, which is part of the invariant. -/
def Obligations.LoadImageIsAllOrNothing : Prop :=
  ∀ (s : State) (image : List Byte),
    (image.length ≤ 3584 → ∃ t, s.loadImage image = .ok t ∧
      (Memory.wf s.cfg.fontRom s.mem → ∀ k (h : k < image.length), t.byteAt (0x200 + k) = image[k]) ∧
      ChangesOnly s t fun p => ∃ k < image.length, p = .mem (0x200 + k)) ∧
    (image.length > 3584 → s.loadImage image = .error .imageTooLong)

/-- `timer_tick` ticks once in External mode, whatever WAIT is; in PerCycle mode and on a Faulted core it does nothing (R213;
decisions D2, D3). -/
def Obligations.HostTickActsOnlyInExternalMode : Prop :=
  ∀ s : State, ∃ t, s.act .timerTick = .ok t ∧ t.out.result = none ∧ t.out.warning = none ∧
    (s.cfg.tickSource = .external → s.status = .running →
      t.dt.toNat = s.dt.toNat - 1 ∧ t.st.toNat = s.st.toNat - 1 ∧ (t.out.beep = true ↔ s.st.toNat = 1) ∧
      ChangesOnly s t fun p => p = .dt ∨ p = .st ∨ p = .out) ∧
    (s.cfg.tickSource = .perCycle ∨ s.status ≠ .running →
      t.out.beep = false ∧ ChangesOnly s t fun p => p = .out)

/-- After initialize, from any state, every part of the core has the value of R260, with FONT_ROM the machine's own parameter
(decisions D7, D17, D30, D31); it clears a fault. The model's own count of random bytes goes on (log entry 3). -/
def Obligations.InitializeGivesResetValues : Prop :=
  ∀ s : State, ∃ t, s.act .reinit = .ok t ∧ t.cfg = s.cfg ∧
    (∀ a (h : a < 80), t.byteAt a = s.cfg.fontRom[a]) ∧ (∀ a, 80 ≤ a → t.byteAt a = 0) ∧
    (∀ x, t.reg x = 0) ∧ t.i = 0 ∧ t.pc = 0x200 ∧ t.sp = 0 ∧ (∀ j : Fin 16, t.stack[j.val] = 0) ∧ t.dt = 0 ∧ t.st = 0 ∧
    (∀ k, t.key k = false) ∧ (∀ x y, x < 64 → y < 32 → t.pixel x y = false) ∧ t.redraw = true ∧ t.wait = none ∧
    t.status = .running ∧ t.draws = s.draws
end

