-- ==== Sys2Proof/Laws/Decode.lean ====
section
/-! SUPPORT. The fields of an encoded word, and a word from its fields (spec/30_encoding.md R72, R74). -/

namespace Sys2Proof

/-- A field is the number the spec's `w[hi:lo]` is (R6). -/
theorem toNat_field (w : Word) (lo len : Nat) : (field w lo len).toNat = w.toNat / 2 ^ lo % 2 ^ len := by
  rw [field, BitVec.extractLsb'_toNat, Nat.shiftRight_eq_div_pow]

theorem toNat_fieldOp (w : Word) : (fieldOp w).toNat = w.toNat / 4096 % 16 := toNat_field w 12 4
theorem val_fieldX (w : Word) : (fieldX w).val = w.toNat / 256 % 16 := toNat_field w 8 4
theorem val_fieldY (w : Word) : (fieldY w).val = w.toNat / 16 % 16 := toNat_field w 4 4
theorem val_fieldN (w : Word) : (fieldN w).val = w.toNat % 16 := by
  rw [show (fieldN w).val = w.toNat / 2 ^ 0 % 2 ^ 4 from toNat_field w 0 4]; simp
theorem toNat_fieldNN (w : Word) : (fieldNN w).toNat = w.toNat % 256 := by
  rw [show (fieldNN w).toNat = w.toNat / 2 ^ 0 % 2 ^ 8 from toNat_field w 0 8]; simp
theorem toNat_fieldNNN (w : Word) : (fieldNNN w).toNat = w.toNat % 4096 := by
  rw [show (fieldNNN w).toNat = w.toNat / 2 ^ 0 % 2 ^ 12 from toNat_field w 0 12]; simp

theorem toNat_append_eq {m n : Nat} (a : BitVec m) (b : BitVec n) : (a ++ b).toNat = a.toNat * 2 ^ n + b.toNat := by
  rw [BitVec.toNat_append, ← Nat.shiftLeft_add_eq_or_of_lt b.isLt, Nat.shiftLeft_eq]

/-- The word of format A as a number (R74). -/
theorem toNat_fmtA (op : BitVec 4) (nnn : BitVec 12) : (fmtA op nnn).toNat = op.toNat * 4096 + nnn.toNat :=
  toNat_append_eq op nnn

/-- The word of formats XB and XF as a number (R74). -/
theorem toNat_fmtXB (op : BitVec 4) (x : Reg) (nn : Byte) :
    (fmtXB op x nn).toNat = op.toNat * 4096 + x.val * 256 + nn.toNat := by
  have h2 : ((BitVec.ofFin x : BitVec 4) ++ nn : BitVec 12).toNat = x.val * 256 + nn.toNat :=
    toNat_append_eq (BitVec.ofFin x : BitVec 4) nn
  rw [show (fmtXB op x nn).toNat = op.toNat * 4096 + ((BitVec.ofFin x : BitVec 4) ++ nn : BitVec 12).toNat from
    toNat_append_eq op _, h2, Nat.add_assoc]

/-- The word of formats XY and XYN as a number (R74). -/
theorem toNat_fmtXY (op : BitVec 4) (x y : Reg) (n : Fin 16) :
    (fmtXY op x y n).toNat = op.toNat * 4096 + x.val * 256 + y.val * 16 + n.val := by
  have h1 := toNat_append_eq (BitVec.ofFin y : BitVec 4) (BitVec.ofFin n : BitVec 4)
  have h2 : (BitVec.ofFin y : BitVec 4).toNat = y.val := rfl
  have h3 : (BitVec.ofFin n : BitVec 4).toNat = n.val := rfl
  rw [fmtXY, toNat_fmtXB, h1, h2, h3]
  omega

/-! ## Bits of a word and of its fields -/

theorem getLsbD_field (w : Word) (lo len i : Nat) : (field w lo len).getLsbD i = (decide (i < len) && w.getLsbD (lo + i)) :=
  BitVec.getLsbD_extractLsb' ..

theorem getLsbD_fmtA (op : BitVec 4) (nnn : BitVec 12) (i : Nat) :
    (fmtA op nnn).getLsbD i = if i < 12 then nnn.getLsbD i else op.getLsbD (i - 12) :=
  BitVec.getLsbD_append (x := op) (y := nnn)

theorem getLsbD_fmtXB (op : BitVec 4) (x : Reg) (nn : Byte) (i : Nat) :
    (fmtXB op x nn).getLsbD i =
      if i < 12 then (if i < 8 then nn.getLsbD i else (BitVec.ofFin x : BitVec 4).getLsbD (i - 8))
      else op.getLsbD (i - 12) := by
  have h : ((BitVec.ofFin x : BitVec 4) ++ nn : BitVec 12).getLsbD i =
      if i < 8 then nn.getLsbD i else (BitVec.ofFin x : BitVec 4).getLsbD (i - 8) :=
    BitVec.getLsbD_append (x := (BitVec.ofFin x : BitVec 4)) (y := nn)
  rw [← h]
  exact BitVec.getLsbD_append (x := op) (y := ((BitVec.ofFin x : BitVec 4) ++ nn : BitVec 12))

theorem getLsbD_fmtXY (op : BitVec 4) (x y : Reg) (n : Fin 16) (i : Nat) :
    (fmtXY op x y n).getLsbD i =
      if i < 12 then
        (if i < 8 then
          (if i < 4 then (BitVec.ofFin n : BitVec 4).getLsbD i else (BitVec.ofFin y : BitVec 4).getLsbD (i - 4))
        else (BitVec.ofFin x : BitVec 4).getLsbD (i - 8))
      else op.getLsbD (i - 12) := by
  have h : ((BitVec.ofFin y : BitVec 4) ++ (BitVec.ofFin n : BitVec 4) : BitVec 8).getLsbD i =
      if i < 4 then (BitVec.ofFin n : BitVec 4).getLsbD i else (BitVec.ofFin y : BitVec 4).getLsbD (i - 4) :=
    BitVec.getLsbD_append (x := (BitVec.ofFin y : BitVec 4)) (y := (BitVec.ofFin n : BitVec 4))
  rw [fmtXY, getLsbD_fmtXB, h]

/-! ## Masks (R76): `w & mask` keeps whole fields -/

theorem and_F000 (w : Word) : w &&& 0xF000 = fmtA (fieldOp w) 0 := by
  refine BitVec.eq_of_getLsbD_eq fun i hi => ?_
  rw [getLsbD_fmtA, fieldOp, getLsbD_field, BitVec.getLsbD_and]
  interval_cases i <;> simp

theorem and_F00F (w : Word) : w &&& 0xF00F = fmtXY (fieldOp w) 0 0 (fieldN w) := by
  refine BitVec.eq_of_getLsbD_eq fun i hi => ?_
  rw [getLsbD_fmtXY, fieldOp, getLsbD_field, BitVec.getLsbD_and,
    show (BitVec.ofFin (fieldN w) : BitVec 4) = field w 0 4 from rfl, getLsbD_field]
  interval_cases i <;> simp

theorem and_F0FF (w : Word) : w &&& 0xF0FF = fmtXB (fieldOp w) 0 (fieldNN w) := by
  refine BitVec.eq_of_getLsbD_eq fun i hi => ?_
  rw [getLsbD_fmtXB, fieldOp, fieldNN, getLsbD_field, getLsbD_field, BitVec.getLsbD_and]
  interval_cases i <;> simp

/-- A word is its big-endian bytes (R53). -/
theorem wordOfBytes_hi_lo (w : Word) : wordOfBytes (hiByte w) (loByte w) = w := by
  refine BitVec.eq_of_toNat_eq ?_
  have h := toNat_append_eq (hiByte w) (loByte w)
  have h1 : (hiByte w).toNat = w.toNat / 256 % 256 := toNat_field w 8 8
  have h2 : (loByte w).toNat = w.toNat % 256 := toNat_fieldNN w
  have := w.isLt
  rw [show (wordOfBytes (hiByte w) (loByte w)).toNat = (hiByte w).toNat * 2 ^ 8 + (loByte w).toNat from h, h1, h2]
  omega

theorem toNat_wordOfBytes (hi lo : Byte) : (wordOfBytes hi lo).toNat = hi.toNat * 256 + lo.toNat :=
  toNat_append_eq hi lo

/-- The fields of format A are read back (R72, R74). -/
theorem fields_fmtA (op : BitVec 4) (nnn : BitVec 12) :
    fieldOp (fmtA op nnn) = op ∧ fieldNNN (fmtA op nnn) = nnn := by
  have := op.isLt; have := nnn.isLt
  refine ⟨BitVec.eq_of_toNat_eq ?_, BitVec.eq_of_toNat_eq ?_⟩
  · rw [toNat_fieldOp, toNat_fmtA]; omega
  · rw [toNat_fieldNNN, toNat_fmtA]; omega

/-- The fields of formats XB and XF are read back (R72, R74). -/
theorem fields_fmtXB (op : BitVec 4) (x : Reg) (nn : Byte) :
    fieldOp (fmtXB op x nn) = op ∧ fieldX (fmtXB op x nn) = x ∧ fieldNN (fmtXB op x nn) = nn := by
  have := op.isLt; have := x.isLt; have := nn.isLt
  refine ⟨BitVec.eq_of_toNat_eq ?_, Fin.ext ?_, BitVec.eq_of_toNat_eq ?_⟩
  · rw [toNat_fieldOp, toNat_fmtXB]; omega
  · rw [val_fieldX, toNat_fmtXB]; omega
  · rw [toNat_fieldNN, toNat_fmtXB]; omega

/-- The fields of formats XY and XYN are read back (R72, R74). -/
theorem fields_fmtXY (op : BitVec 4) (x y : Reg) (n : Fin 16) :
    fieldOp (fmtXY op x y n) = op ∧ fieldX (fmtXY op x y n) = x ∧ fieldY (fmtXY op x y n) = y ∧
      fieldN (fmtXY op x y n) = n := by
  have := op.isLt; have := x.isLt; have := y.isLt; have := n.isLt
  refine ⟨BitVec.eq_of_toNat_eq ?_, Fin.ext ?_, Fin.ext ?_, Fin.ext ?_⟩
  · rw [toNat_fieldOp, toNat_fmtXY]; omega
  · rw [val_fieldX, toNat_fmtXY]; omega
  · rw [val_fieldY, toNat_fmtXY]; omega
  · rw [val_fieldN, toNat_fmtXY]; omega

/-- A word is built from its fields, format by format (R72). -/
theorem fmtA_fields (w : Word) : fmtA (fieldOp w) (fieldNNN w) = w := by
  refine BitVec.eq_of_toNat_eq ?_
  have := w.isLt
  rw [toNat_fmtA, toNat_fieldOp, toNat_fieldNNN]; omega

theorem fmtXB_fields (w : Word) : fmtXB (fieldOp w) (fieldX w) (fieldNN w) = w := by
  refine BitVec.eq_of_toNat_eq ?_
  have := w.isLt
  rw [toNat_fmtXB, toNat_fieldOp, val_fieldX, toNat_fieldNN]; omega

theorem fmtXY_fields (w : Word) : fmtXY (fieldOp w) (fieldX w) (fieldY w) (fieldN w) = w := by
  refine BitVec.eq_of_toNat_eq ?_
  have := w.isLt
  rw [toNat_fmtXY, toNat_fieldOp, val_fieldX, val_fieldY, val_fieldN]; omega

end Sys2Proof
end

