-- ==== Sys2Proof/Laws/Memory.lean ====
section
/-! SUPPORT. The laws of the sparse memory: reads after writes, and that every operation keeps the canonical form. -/

namespace Sys2Proof.Machine

theorem Memory.read_put (font : Font) (m : Memory) (a c : Nat) (b : Byte) :
    Memory.read font (m.put a b) c = if c = a then b else Memory.read font m c := by
  induction m with
  | nil => simp [Memory.put, Memory.read]
  | cons d m ih =>
    simp only [Memory.put]
    split_ifs <;> simp only [Memory.read] <;> split_ifs <;> simp_all

/-- Below every listed address a memory reads as its reset content. -/
theorem Memory.read_of_below (font : Font) (m : Memory) (a : Nat) (h : ∀ c ∈ m, a < c.1) :
    Memory.read font m a = background font a := by
  induction m with
  | nil => rfl
  | cons d m ih =>
    have hd := h d (by simp)
    rw [Memory.read, if_neg (by omega)]
    exact ih fun c hc => h c (by simp [hc])

theorem Memory.read_drop (font : Font) (m : Memory) (a c : Nat) (h : m.Pairwise fun c d => c.1 < d.1) :
    Memory.read font (m.drop a) c = if c = a then background font a else Memory.read font m c := by
  induction m with
  | nil => simp only [Memory.drop, Memory.read]; split_ifs <;> simp_all
  | cons d m ih =>
    obtain ⟨hd, hm⟩ := List.pairwise_cons.1 h
    simp only [Memory.drop]
    split_ifs with h1 h2 h3 h4 h5
    · subst h2
      exact Memory.read_of_below font _ _ fun e he => by
        rcases List.mem_cons.1 he with rfl | he
        · exact h1
        · exact lt_trans h1 (hd e he)
    · rfl
    · subst h4
      exact Memory.read_of_below font _ _ fun e he => h3 ▸ hd e he
    · simp only [Memory.read]; rw [if_neg (by omega)]
    · subst h5; simp only [Memory.read]; rw [if_neg (by omega), ih hm, if_pos rfl]
    · simp only [Memory.read]; rw [ih hm, if_neg h5]

/-- Unlisting a cell leaves the reads of every other cell alone, whatever form the list has. -/
theorem Memory.read_drop_of_ne (font : Font) (m : Memory) (a c : Nat) (h : c ≠ a) :
    Memory.read font (m.drop a) c = Memory.read font m c := by
  induction m with
  | nil => rfl
  | cons d m ih =>
    simp only [Memory.drop]
    split_ifs with h1 h2
    · rfl
    · rw [Memory.read, if_neg (h2 ▸ h)]
    · simp only [Memory.read, ih]

/-- A write leaves every other cell alone (R56), whatever form the list has. -/
theorem Memory.read_write_of_ne (font : Font) (m : Memory) (a c : Nat) (b : Byte) (h : c ≠ a) :
    Memory.read font (m.write font a b) c = Memory.read font m c := by
  unfold Memory.write
  split_ifs
  · exact Memory.read_drop_of_ne font m a c h
  · rw [Memory.read_put, if_neg h]

/-- A write changes its own cell and no other (R56). -/
theorem Memory.read_write (font : Font) (m : Memory) (a c : Nat) (b : Byte) (h : m.Pairwise fun c d => c.1 < d.1) :
    Memory.read font (m.write font a b) c = if c = a then b else Memory.read font m c := by
  unfold Memory.write
  split_ifs with hb hc hc
  · rw [Memory.read_drop font m a c h, if_pos hc, hb]
  · rw [Memory.read_drop font m a c h, if_neg hc]
  · rw [Memory.read_put, if_pos hc]
  · rw [Memory.read_put, if_neg hc]

theorem Memory.mem_put {m : Memory} {a : Nat} {b : Byte} {c : Host.Cell} (h : c ∈ m.put a b) : c = (a, b) ∨ c ∈ m := by
  induction m with
  | nil => exact .inl (by simpa [Memory.put] using h)
  | cons d m ih =>
    simp only [Memory.put] at h
    split_ifs at h
    · exact List.mem_cons.1 h
    · rcases List.mem_cons.1 h with h | h <;> simp [h]
    · rcases List.mem_cons.1 h with h | h
      · simp [h]
      · rcases ih h with h | h <;> simp [h]

theorem Memory.mem_drop {m : Memory} {a : Nat} {c : Host.Cell} (h : c ∈ m.drop a) : c ∈ m := by
  induction m with
  | nil => exact absurd h (by simp [Memory.drop])
  | cons d m ih =>
    simp only [Memory.drop] at h
    split_ifs at h
    · exact h
    · simp [h]
    · rcases List.mem_cons.1 h with h | h
      · simp [h]
      · simp [ih h]

theorem Memory.rising_put (m : Memory) (a : Nat) (b : Byte) (h : m.Pairwise fun c d => c.1 < d.1) :
    (m.put a b).Pairwise fun c d => c.1 < d.1 := by
  induction m with
  | nil => simp [Memory.put]
  | cons d m ih =>
    obtain ⟨hd, hm⟩ := List.pairwise_cons.1 h
    simp only [Memory.put]
    split_ifs with h1 h2
    · refine List.pairwise_cons.2 ⟨fun e he => ?_, h⟩
      rcases List.mem_cons.1 he with rfl | he
      · exact h1
      · exact lt_trans h1 (hd e he)
    · exact List.pairwise_cons.2 ⟨fun e he => h2 ▸ hd e he, hm⟩
    · refine List.pairwise_cons.2 ⟨fun e he => ?_, ih hm⟩
      rcases Memory.mem_put he with rfl | he
      · show d.1 < a; omega
      · exact hd e he

theorem Memory.rising_drop (m : Memory) (a : Nat) (h : m.Pairwise fun c d => c.1 < d.1) :
    (m.drop a).Pairwise fun c d => c.1 < d.1 := by
  induction m with
  | nil => simp [Memory.drop]
  | cons d m ih =>
    obtain ⟨hd, hm⟩ := List.pairwise_cons.1 h
    simp only [Memory.drop]
    split_ifs
    · exact h
    · exact hm
    · exact List.pairwise_cons.2 ⟨fun e he => hd e (Memory.mem_drop he), ih hm⟩

/-- A write inside the address space keeps the canonical form. -/
theorem Memory.wf_write (font : Font) (m : Memory) (a : Nat) (b : Byte) (ha : a < 4096) (h : Memory.wf font m) :
    Memory.wf font (m.write font a b) := by
  unfold Memory.write
  split_ifs with hb
  · exact ⟨Memory.rising_drop m a h.1, fun c hc => h.2 c (Memory.mem_drop hc)⟩
  · refine ⟨Memory.rising_put m a b h.1, fun c hc => ?_⟩
    rcases Memory.mem_put hc with rfl | hc
    · exact ⟨ha, hb⟩
    · exact h.2 c hc

/-- The memory of reset is canonical. -/
theorem Memory.wf_nil (font : Font) : Memory.wf font [] := by simp [Memory.wf]

end Sys2Proof.Machine
end

