-- ==== Sys2Proof/Laws/State.lean ====
section
/-! SUPPORT. One lemma per field per state update, each true by definition, so that no proof unfolds a record update. -/

namespace Sys2Proof.Machine

/-! ### State.setByte (R52) -/

@[simp] theorem State.setByte_cfg (s : State) (a : Nat) (b : Byte) : (s.setByte a b).cfg = s.cfg := rfl
@[simp] theorem State.setByte_mem (s : State) (a : Nat) (b : Byte) : (s.setByte a b).mem = Memory.write s.cfg.fontRom s.mem a b := rfl
@[simp] theorem State.setByte_v (s : State) (a : Nat) (b : Byte) : (s.setByte a b).v = s.v := rfl
@[simp] theorem State.setByte_i (s : State) (a : Nat) (b : Byte) : (s.setByte a b).i = s.i := rfl
@[simp] theorem State.setByte_pc (s : State) (a : Nat) (b : Byte) : (s.setByte a b).pc = s.pc := rfl
@[simp] theorem State.setByte_sp (s : State) (a : Nat) (b : Byte) : (s.setByte a b).sp = s.sp := rfl
@[simp] theorem State.setByte_stack (s : State) (a : Nat) (b : Byte) : (s.setByte a b).stack = s.stack := rfl
@[simp] theorem State.setByte_dt (s : State) (a : Nat) (b : Byte) : (s.setByte a b).dt = s.dt := rfl
@[simp] theorem State.setByte_st (s : State) (a : Nat) (b : Byte) : (s.setByte a b).st = s.st := rfl
@[simp] theorem State.setByte_keys (s : State) (a : Nat) (b : Byte) : (s.setByte a b).keys = s.keys := rfl
@[simp] theorem State.setByte_fb (s : State) (a : Nat) (b : Byte) : (s.setByte a b).fb = s.fb := rfl
@[simp] theorem State.setByte_redraw (s : State) (a : Nat) (b : Byte) : (s.setByte a b).redraw = s.redraw := rfl
@[simp] theorem State.setByte_wait (s : State) (a : Nat) (b : Byte) : (s.setByte a b).wait = s.wait := rfl
@[simp] theorem State.setByte_status (s : State) (a : Nat) (b : Byte) : (s.setByte a b).status = s.status := rfl
@[simp] theorem State.setByte_draws (s : State) (a : Nat) (b : Byte) : (s.setByte a b).draws = s.draws := rfl
@[simp] theorem State.setByte_out (s : State) (a : Nat) (b : Byte) : (s.setByte a b).out = s.out := rfl
@[simp] theorem State.reg_setByte (s : State) (a : Nat) (b : Byte) (y : Reg) : (s.setByte a b).reg y = s.reg y := rfl
@[simp] theorem State.key_setByte (s : State) (a : Nat) (b : Byte) (k : Reg) : (s.setByte a b).key k = s.key k := rfl
@[simp] theorem State.pixel_setByte (s : State) (a : Nat) (b : Byte) (px py : Nat) : (s.setByte a b).pixel px py = s.pixel px py := rfl

/-! ### State.setReg (R20) -/

@[simp] theorem State.setReg_cfg (s : State) (x : Reg) (b : Byte) : (s.setReg x b).cfg = s.cfg := rfl
@[simp] theorem State.setReg_mem (s : State) (x : Reg) (b : Byte) : (s.setReg x b).mem = s.mem := rfl
@[simp] theorem State.setReg_v (s : State) (x : Reg) (b : Byte) : (s.setReg x b).v = s.v.set x.val b := rfl
@[simp] theorem State.setReg_i (s : State) (x : Reg) (b : Byte) : (s.setReg x b).i = s.i := rfl
@[simp] theorem State.setReg_pc (s : State) (x : Reg) (b : Byte) : (s.setReg x b).pc = s.pc := rfl
@[simp] theorem State.setReg_sp (s : State) (x : Reg) (b : Byte) : (s.setReg x b).sp = s.sp := rfl
@[simp] theorem State.setReg_stack (s : State) (x : Reg) (b : Byte) : (s.setReg x b).stack = s.stack := rfl
@[simp] theorem State.setReg_dt (s : State) (x : Reg) (b : Byte) : (s.setReg x b).dt = s.dt := rfl
@[simp] theorem State.setReg_st (s : State) (x : Reg) (b : Byte) : (s.setReg x b).st = s.st := rfl
@[simp] theorem State.setReg_keys (s : State) (x : Reg) (b : Byte) : (s.setReg x b).keys = s.keys := rfl
@[simp] theorem State.setReg_fb (s : State) (x : Reg) (b : Byte) : (s.setReg x b).fb = s.fb := rfl
@[simp] theorem State.setReg_redraw (s : State) (x : Reg) (b : Byte) : (s.setReg x b).redraw = s.redraw := rfl
@[simp] theorem State.setReg_wait (s : State) (x : Reg) (b : Byte) : (s.setReg x b).wait = s.wait := rfl
@[simp] theorem State.setReg_status (s : State) (x : Reg) (b : Byte) : (s.setReg x b).status = s.status := rfl
@[simp] theorem State.setReg_draws (s : State) (x : Reg) (b : Byte) : (s.setReg x b).draws = s.draws := rfl
@[simp] theorem State.setReg_out (s : State) (x : Reg) (b : Byte) : (s.setReg x b).out = s.out := rfl
@[simp] theorem State.byteAt_setReg (s : State) (x : Reg) (b : Byte) (c : Nat) : (s.setReg x b).byteAt c = s.byteAt c := rfl
@[simp] theorem State.key_setReg (s : State) (x : Reg) (b : Byte) (k : Reg) : (s.setReg x b).key k = s.key k := rfl
@[simp] theorem State.pixel_setReg (s : State) (x : Reg) (b : Byte) (px py : Nat) : (s.setReg x b).pixel px py = s.pixel px py := rfl

/-! ### State.setI (R24) -/

@[simp] theorem State.setI_cfg (s : State) (w : Word) : (s.setI w).cfg = s.cfg := rfl
@[simp] theorem State.setI_mem (s : State) (w : Word) : (s.setI w).mem = s.mem := rfl
@[simp] theorem State.setI_v (s : State) (w : Word) : (s.setI w).v = s.v := rfl
@[simp] theorem State.setI_i (s : State) (w : Word) : (s.setI w).i = w := rfl
@[simp] theorem State.setI_pc (s : State) (w : Word) : (s.setI w).pc = s.pc := rfl
@[simp] theorem State.setI_sp (s : State) (w : Word) : (s.setI w).sp = s.sp := rfl
@[simp] theorem State.setI_stack (s : State) (w : Word) : (s.setI w).stack = s.stack := rfl
@[simp] theorem State.setI_dt (s : State) (w : Word) : (s.setI w).dt = s.dt := rfl
@[simp] theorem State.setI_st (s : State) (w : Word) : (s.setI w).st = s.st := rfl
@[simp] theorem State.setI_keys (s : State) (w : Word) : (s.setI w).keys = s.keys := rfl
@[simp] theorem State.setI_fb (s : State) (w : Word) : (s.setI w).fb = s.fb := rfl
@[simp] theorem State.setI_redraw (s : State) (w : Word) : (s.setI w).redraw = s.redraw := rfl
@[simp] theorem State.setI_wait (s : State) (w : Word) : (s.setI w).wait = s.wait := rfl
@[simp] theorem State.setI_status (s : State) (w : Word) : (s.setI w).status = s.status := rfl
@[simp] theorem State.setI_draws (s : State) (w : Word) : (s.setI w).draws = s.draws := rfl
@[simp] theorem State.setI_out (s : State) (w : Word) : (s.setI w).out = s.out := rfl
@[simp] theorem State.reg_setI (s : State) (w : Word) (y : Reg) : (s.setI w).reg y = s.reg y := rfl
@[simp] theorem State.byteAt_setI (s : State) (w : Word) (c : Nat) : (s.setI w).byteAt c = s.byteAt c := rfl
@[simp] theorem State.key_setI (s : State) (w : Word) (k : Reg) : (s.setI w).key k = s.key k := rfl
@[simp] theorem State.pixel_setI (s : State) (w : Word) (px py : Nat) : (s.setI w).pixel px py = s.pixel px py := rfl

/-! ### State.setPc (R25) -/

@[simp] theorem State.setPc_cfg (s : State) (w : Word) : (s.setPc w).cfg = s.cfg := rfl
@[simp] theorem State.setPc_mem (s : State) (w : Word) : (s.setPc w).mem = s.mem := rfl
@[simp] theorem State.setPc_v (s : State) (w : Word) : (s.setPc w).v = s.v := rfl
@[simp] theorem State.setPc_i (s : State) (w : Word) : (s.setPc w).i = s.i := rfl
@[simp] theorem State.setPc_pc (s : State) (w : Word) : (s.setPc w).pc = w := rfl
@[simp] theorem State.setPc_sp (s : State) (w : Word) : (s.setPc w).sp = s.sp := rfl
@[simp] theorem State.setPc_stack (s : State) (w : Word) : (s.setPc w).stack = s.stack := rfl
@[simp] theorem State.setPc_dt (s : State) (w : Word) : (s.setPc w).dt = s.dt := rfl
@[simp] theorem State.setPc_st (s : State) (w : Word) : (s.setPc w).st = s.st := rfl
@[simp] theorem State.setPc_keys (s : State) (w : Word) : (s.setPc w).keys = s.keys := rfl
@[simp] theorem State.setPc_fb (s : State) (w : Word) : (s.setPc w).fb = s.fb := rfl
@[simp] theorem State.setPc_redraw (s : State) (w : Word) : (s.setPc w).redraw = s.redraw := rfl
@[simp] theorem State.setPc_wait (s : State) (w : Word) : (s.setPc w).wait = s.wait := rfl
@[simp] theorem State.setPc_status (s : State) (w : Word) : (s.setPc w).status = s.status := rfl
@[simp] theorem State.setPc_draws (s : State) (w : Word) : (s.setPc w).draws = s.draws := rfl
@[simp] theorem State.setPc_out (s : State) (w : Word) : (s.setPc w).out = s.out := rfl
@[simp] theorem State.reg_setPc (s : State) (w : Word) (y : Reg) : (s.setPc w).reg y = s.reg y := rfl
@[simp] theorem State.byteAt_setPc (s : State) (w : Word) (c : Nat) : (s.setPc w).byteAt c = s.byteAt c := rfl
@[simp] theorem State.key_setPc (s : State) (w : Word) (k : Reg) : (s.setPc w).key k = s.key k := rfl
@[simp] theorem State.pixel_setPc (s : State) (w : Word) (px py : Nat) : (s.setPc w).pixel px py = s.pixel px py := rfl

/-! ### State.advance (R91) -/

@[simp] theorem State.advance_cfg (s : State) : s.advance.cfg = s.cfg := rfl
@[simp] theorem State.advance_mem (s : State) : s.advance.mem = s.mem := rfl
@[simp] theorem State.advance_v (s : State) : s.advance.v = s.v := rfl
@[simp] theorem State.advance_i (s : State) : s.advance.i = s.i := rfl
@[simp] theorem State.advance_pc (s : State) : s.advance.pc = s.pc + 2 := rfl
@[simp] theorem State.advance_sp (s : State) : s.advance.sp = s.sp := rfl
@[simp] theorem State.advance_stack (s : State) : s.advance.stack = s.stack := rfl
@[simp] theorem State.advance_dt (s : State) : s.advance.dt = s.dt := rfl
@[simp] theorem State.advance_st (s : State) : s.advance.st = s.st := rfl
@[simp] theorem State.advance_keys (s : State) : s.advance.keys = s.keys := rfl
@[simp] theorem State.advance_fb (s : State) : s.advance.fb = s.fb := rfl
@[simp] theorem State.advance_redraw (s : State) : s.advance.redraw = s.redraw := rfl
@[simp] theorem State.advance_wait (s : State) : s.advance.wait = s.wait := rfl
@[simp] theorem State.advance_status (s : State) : s.advance.status = s.status := rfl
@[simp] theorem State.advance_draws (s : State) : s.advance.draws = s.draws := rfl
@[simp] theorem State.advance_out (s : State) : s.advance.out = s.out := rfl
@[simp] theorem State.reg_advance (s : State) (y : Reg) : s.advance.reg y = s.reg y := rfl
@[simp] theorem State.byteAt_advance (s : State) (c : Nat) : s.advance.byteAt c = s.byteAt c := rfl
@[simp] theorem State.key_advance (s : State) (k : Reg) : s.advance.key k = s.key k := rfl
@[simp] theorem State.pixel_advance (s : State) (px py : Nat) : s.advance.pixel px py = s.pixel px py := rfl

/-! ### State.raise (R232) -/

@[simp] theorem State.raise_cfg (s : State) (w : Option Word) (f : Fault) : (s.raise w f).cfg = s.cfg := rfl
@[simp] theorem State.raise_mem (s : State) (w : Option Word) (f : Fault) : (s.raise w f).mem = s.mem := rfl
@[simp] theorem State.raise_v (s : State) (w : Option Word) (f : Fault) : (s.raise w f).v = s.v := rfl
@[simp] theorem State.raise_i (s : State) (w : Option Word) (f : Fault) : (s.raise w f).i = s.i := rfl
@[simp] theorem State.raise_pc (s : State) (w : Option Word) (f : Fault) : (s.raise w f).pc = s.pc := rfl
@[simp] theorem State.raise_sp (s : State) (w : Option Word) (f : Fault) : (s.raise w f).sp = s.sp := rfl
@[simp] theorem State.raise_stack (s : State) (w : Option Word) (f : Fault) : (s.raise w f).stack = s.stack := rfl
@[simp] theorem State.raise_dt (s : State) (w : Option Word) (f : Fault) : (s.raise w f).dt = s.dt := rfl
@[simp] theorem State.raise_st (s : State) (w : Option Word) (f : Fault) : (s.raise w f).st = s.st := rfl
@[simp] theorem State.raise_keys (s : State) (w : Option Word) (f : Fault) : (s.raise w f).keys = s.keys := rfl
@[simp] theorem State.raise_fb (s : State) (w : Option Word) (f : Fault) : (s.raise w f).fb = s.fb := rfl
@[simp] theorem State.raise_redraw (s : State) (w : Option Word) (f : Fault) : (s.raise w f).redraw = s.redraw := rfl
@[simp] theorem State.raise_wait (s : State) (w : Option Word) (f : Fault) : (s.raise w f).wait = s.wait := rfl
@[simp] theorem State.raise_status (s : State) (w : Option Word) (f : Fault) : (s.raise w f).status = .faulted { fault := f, pc := s.pc, word := w } := rfl
@[simp] theorem State.raise_draws (s : State) (w : Option Word) (f : Fault) : (s.raise w f).draws = s.draws := rfl
@[simp] theorem State.raise_out (s : State) (w : Option Word) (f : Fault) : (s.raise w f).out = s.out := rfl
@[simp] theorem State.reg_raise (s : State) (w : Option Word) (f : Fault) (y : Reg) : (s.raise w f).reg y = s.reg y := rfl
@[simp] theorem State.byteAt_raise (s : State) (w : Option Word) (f : Fault) (c : Nat) : (s.raise w f).byteAt c = s.byteAt c := rfl
@[simp] theorem State.key_raise (s : State) (w : Option Word) (f : Fault) (k : Reg) : (s.raise w f).key k = s.key k := rfl
@[simp] theorem State.pixel_raise (s : State) (w : Option Word) (f : Fault) (px py : Nat) : (s.raise w f).pixel px py = s.pixel px py := rfl

/-! ### State.popPc (R121) -/

@[simp] theorem State.popPc_cfg (s : State) : s.popPc.cfg = s.cfg := rfl
@[simp] theorem State.popPc_mem (s : State) : s.popPc.mem = s.mem := rfl
@[simp] theorem State.popPc_v (s : State) : s.popPc.v = s.v := rfl
@[simp] theorem State.popPc_i (s : State) : s.popPc.i = s.i := rfl
@[simp] theorem State.popPc_pc (s : State) : s.popPc.pc = s.stack[s.sp.val - 1]'(by omega) := rfl
@[simp] theorem State.popPc_sp (s : State) : s.popPc.sp = ⟨s.sp.val - 1, by omega⟩ := rfl
@[simp] theorem State.popPc_stack (s : State) : s.popPc.stack = s.stack := rfl
@[simp] theorem State.popPc_dt (s : State) : s.popPc.dt = s.dt := rfl
@[simp] theorem State.popPc_st (s : State) : s.popPc.st = s.st := rfl
@[simp] theorem State.popPc_keys (s : State) : s.popPc.keys = s.keys := rfl
@[simp] theorem State.popPc_fb (s : State) : s.popPc.fb = s.fb := rfl
@[simp] theorem State.popPc_redraw (s : State) : s.popPc.redraw = s.redraw := rfl
@[simp] theorem State.popPc_wait (s : State) : s.popPc.wait = s.wait := rfl
@[simp] theorem State.popPc_status (s : State) : s.popPc.status = s.status := rfl
@[simp] theorem State.popPc_draws (s : State) : s.popPc.draws = s.draws := rfl
@[simp] theorem State.popPc_out (s : State) : s.popPc.out = s.out := rfl
@[simp] theorem State.reg_popPc (s : State) (y : Reg) : s.popPc.reg y = s.reg y := rfl
@[simp] theorem State.byteAt_popPc (s : State) (c : Nat) : s.popPc.byteAt c = s.byteAt c := rfl
@[simp] theorem State.key_popPc (s : State) (k : Reg) : s.popPc.key k = s.key k := rfl
@[simp] theorem State.pixel_popPc (s : State) (px py : Nat) : s.popPc.pixel px py = s.pixel px py := rfl

/-! ### State.setDelay (R205) -/

@[simp] theorem State.setDelay_cfg (s : State) (b : Byte) : (s.setDelay b).cfg = s.cfg := rfl
@[simp] theorem State.setDelay_mem (s : State) (b : Byte) : (s.setDelay b).mem = s.mem := rfl
@[simp] theorem State.setDelay_v (s : State) (b : Byte) : (s.setDelay b).v = s.v := rfl
@[simp] theorem State.setDelay_i (s : State) (b : Byte) : (s.setDelay b).i = s.i := rfl
@[simp] theorem State.setDelay_pc (s : State) (b : Byte) : (s.setDelay b).pc = s.pc := rfl
@[simp] theorem State.setDelay_sp (s : State) (b : Byte) : (s.setDelay b).sp = s.sp := rfl
@[simp] theorem State.setDelay_stack (s : State) (b : Byte) : (s.setDelay b).stack = s.stack := rfl
@[simp] theorem State.setDelay_dt (s : State) (b : Byte) : (s.setDelay b).dt = b := rfl
@[simp] theorem State.setDelay_st (s : State) (b : Byte) : (s.setDelay b).st = s.st := rfl
@[simp] theorem State.setDelay_keys (s : State) (b : Byte) : (s.setDelay b).keys = s.keys := rfl
@[simp] theorem State.setDelay_fb (s : State) (b : Byte) : (s.setDelay b).fb = s.fb := rfl
@[simp] theorem State.setDelay_redraw (s : State) (b : Byte) : (s.setDelay b).redraw = s.redraw := rfl
@[simp] theorem State.setDelay_wait (s : State) (b : Byte) : (s.setDelay b).wait = s.wait := rfl
@[simp] theorem State.setDelay_status (s : State) (b : Byte) : (s.setDelay b).status = s.status := rfl
@[simp] theorem State.setDelay_draws (s : State) (b : Byte) : (s.setDelay b).draws = s.draws := rfl
@[simp] theorem State.setDelay_out (s : State) (b : Byte) : (s.setDelay b).out = s.out := rfl
@[simp] theorem State.reg_setDelay (s : State) (b : Byte) (y : Reg) : (s.setDelay b).reg y = s.reg y := rfl
@[simp] theorem State.byteAt_setDelay (s : State) (b : Byte) (c : Nat) : (s.setDelay b).byteAt c = s.byteAt c := rfl
@[simp] theorem State.key_setDelay (s : State) (b : Byte) (k : Reg) : (s.setDelay b).key k = s.key k := rfl
@[simp] theorem State.pixel_setDelay (s : State) (b : Byte) (px py : Nat) : (s.setDelay b).pixel px py = s.pixel px py := rfl

/-! ### State.setSound (R206) -/

@[simp] theorem State.setSound_cfg (s : State) (b : Byte) : (s.setSound b).cfg = s.cfg := rfl
@[simp] theorem State.setSound_mem (s : State) (b : Byte) : (s.setSound b).mem = s.mem := rfl
@[simp] theorem State.setSound_v (s : State) (b : Byte) : (s.setSound b).v = s.v := rfl
@[simp] theorem State.setSound_i (s : State) (b : Byte) : (s.setSound b).i = s.i := rfl
@[simp] theorem State.setSound_pc (s : State) (b : Byte) : (s.setSound b).pc = s.pc := rfl
@[simp] theorem State.setSound_sp (s : State) (b : Byte) : (s.setSound b).sp = s.sp := rfl
@[simp] theorem State.setSound_stack (s : State) (b : Byte) : (s.setSound b).stack = s.stack := rfl
@[simp] theorem State.setSound_dt (s : State) (b : Byte) : (s.setSound b).dt = s.dt := rfl
@[simp] theorem State.setSound_st (s : State) (b : Byte) : (s.setSound b).st = b := rfl
@[simp] theorem State.setSound_keys (s : State) (b : Byte) : (s.setSound b).keys = s.keys := rfl
@[simp] theorem State.setSound_fb (s : State) (b : Byte) : (s.setSound b).fb = s.fb := rfl
@[simp] theorem State.setSound_redraw (s : State) (b : Byte) : (s.setSound b).redraw = s.redraw := rfl
@[simp] theorem State.setSound_wait (s : State) (b : Byte) : (s.setSound b).wait = s.wait := rfl
@[simp] theorem State.setSound_status (s : State) (b : Byte) : (s.setSound b).status = s.status := rfl
@[simp] theorem State.setSound_draws (s : State) (b : Byte) : (s.setSound b).draws = s.draws := rfl
@[simp] theorem State.setSound_out (s : State) (b : Byte) : (s.setSound b).out = s.out := rfl
@[simp] theorem State.reg_setSound (s : State) (b : Byte) (y : Reg) : (s.setSound b).reg y = s.reg y := rfl
@[simp] theorem State.byteAt_setSound (s : State) (b : Byte) (c : Nat) : (s.setSound b).byteAt c = s.byteAt c := rfl
@[simp] theorem State.key_setSound (s : State) (b : Byte) (k : Reg) : (s.setSound b).key k = s.key k := rfl
@[simp] theorem State.pixel_setSound (s : State) (b : Byte) (px py : Nat) : (s.setSound b).pixel px py = s.pixel px py := rfl

/-! ### State.tick (R211) -/

@[simp] theorem State.tick_cfg (s : State) : s.tick.cfg = s.cfg := rfl
@[simp] theorem State.tick_mem (s : State) : s.tick.mem = s.mem := rfl
@[simp] theorem State.tick_v (s : State) : s.tick.v = s.v := rfl
@[simp] theorem State.tick_i (s : State) : s.tick.i = s.i := rfl
@[simp] theorem State.tick_pc (s : State) : s.tick.pc = s.pc := rfl
@[simp] theorem State.tick_sp (s : State) : s.tick.sp = s.sp := rfl
@[simp] theorem State.tick_stack (s : State) : s.tick.stack = s.stack := rfl
@[simp] theorem State.tick_dt (s : State) : s.tick.dt = countDown s.dt := rfl
@[simp] theorem State.tick_st (s : State) : s.tick.st = countDown s.st := rfl
@[simp] theorem State.tick_keys (s : State) : s.tick.keys = s.keys := rfl
@[simp] theorem State.tick_fb (s : State) : s.tick.fb = s.fb := rfl
@[simp] theorem State.tick_redraw (s : State) : s.tick.redraw = s.redraw := rfl
@[simp] theorem State.tick_wait (s : State) : s.tick.wait = s.wait := rfl
@[simp] theorem State.tick_status (s : State) : s.tick.status = s.status := rfl
@[simp] theorem State.tick_draws (s : State) : s.tick.draws = s.draws := rfl
@[simp] theorem State.tick_out (s : State) : s.tick.out = s.out := rfl
@[simp] theorem State.reg_tick (s : State) (y : Reg) : s.tick.reg y = s.reg y := rfl
@[simp] theorem State.byteAt_tick (s : State) (c : Nat) : s.tick.byteAt c = s.byteAt c := rfl
@[simp] theorem State.key_tick (s : State) (k : Reg) : s.tick.key k = s.key k := rfl
@[simp] theorem State.pixel_tick (s : State) (px py : Nat) : s.tick.pixel px py = s.pixel px py := rfl

/-! ### State.show (R35) -/

@[simp] theorem State.show_cfg (s : State) (fb : Framebuffer) : (s.show fb).cfg = s.cfg := rfl
@[simp] theorem State.show_mem (s : State) (fb : Framebuffer) : (s.show fb).mem = s.mem := rfl
@[simp] theorem State.show_v (s : State) (fb : Framebuffer) : (s.show fb).v = s.v := rfl
@[simp] theorem State.show_i (s : State) (fb : Framebuffer) : (s.show fb).i = s.i := rfl
@[simp] theorem State.show_pc (s : State) (fb : Framebuffer) : (s.show fb).pc = s.pc := rfl
@[simp] theorem State.show_sp (s : State) (fb : Framebuffer) : (s.show fb).sp = s.sp := rfl
@[simp] theorem State.show_stack (s : State) (fb : Framebuffer) : (s.show fb).stack = s.stack := rfl
@[simp] theorem State.show_dt (s : State) (fb : Framebuffer) : (s.show fb).dt = s.dt := rfl
@[simp] theorem State.show_st (s : State) (fb : Framebuffer) : (s.show fb).st = s.st := rfl
@[simp] theorem State.show_keys (s : State) (fb : Framebuffer) : (s.show fb).keys = s.keys := rfl
@[simp] theorem State.show_fb (s : State) (fb : Framebuffer) : (s.show fb).fb = fb := rfl
@[simp] theorem State.show_redraw (s : State) (fb : Framebuffer) : (s.show fb).redraw = true := rfl
@[simp] theorem State.show_wait (s : State) (fb : Framebuffer) : (s.show fb).wait = s.wait := rfl
@[simp] theorem State.show_status (s : State) (fb : Framebuffer) : (s.show fb).status = s.status := rfl
@[simp] theorem State.show_draws (s : State) (fb : Framebuffer) : (s.show fb).draws = s.draws := rfl
@[simp] theorem State.show_out (s : State) (fb : Framebuffer) : (s.show fb).out = s.out := rfl
@[simp] theorem State.reg_show (s : State) (fb : Framebuffer) (y : Reg) : (s.show fb).reg y = s.reg y := rfl
@[simp] theorem State.byteAt_show (s : State) (fb : Framebuffer) (c : Nat) : (s.show fb).byteAt c = s.byteAt c := rfl
@[simp] theorem State.key_show (s : State) (fb : Framebuffer) (k : Reg) : (s.show fb).key k = s.key k := rfl

/-! ### State.consumeRnd (R166) -/

@[simp] theorem State.consumeRnd_cfg (s : State) : s.consumeRnd.cfg = s.cfg := rfl
@[simp] theorem State.consumeRnd_mem (s : State) : s.consumeRnd.mem = s.mem := rfl
@[simp] theorem State.consumeRnd_v (s : State) : s.consumeRnd.v = s.v := rfl
@[simp] theorem State.consumeRnd_i (s : State) : s.consumeRnd.i = s.i := rfl
@[simp] theorem State.consumeRnd_pc (s : State) : s.consumeRnd.pc = s.pc := rfl
@[simp] theorem State.consumeRnd_sp (s : State) : s.consumeRnd.sp = s.sp := rfl
@[simp] theorem State.consumeRnd_stack (s : State) : s.consumeRnd.stack = s.stack := rfl
@[simp] theorem State.consumeRnd_dt (s : State) : s.consumeRnd.dt = s.dt := rfl
@[simp] theorem State.consumeRnd_st (s : State) : s.consumeRnd.st = s.st := rfl
@[simp] theorem State.consumeRnd_keys (s : State) : s.consumeRnd.keys = s.keys := rfl
@[simp] theorem State.consumeRnd_fb (s : State) : s.consumeRnd.fb = s.fb := rfl
@[simp] theorem State.consumeRnd_redraw (s : State) : s.consumeRnd.redraw = s.redraw := rfl
@[simp] theorem State.consumeRnd_wait (s : State) : s.consumeRnd.wait = s.wait := rfl
@[simp] theorem State.consumeRnd_status (s : State) : s.consumeRnd.status = s.status := rfl
@[simp] theorem State.consumeRnd_draws (s : State) : s.consumeRnd.draws = s.draws + 1 := rfl
@[simp] theorem State.consumeRnd_out (s : State) : s.consumeRnd.out = s.out := rfl
@[simp] theorem State.reg_consumeRnd (s : State) (y : Reg) : s.consumeRnd.reg y = s.reg y := rfl
@[simp] theorem State.byteAt_consumeRnd (s : State) (c : Nat) : s.consumeRnd.byteAt c = s.byteAt c := rfl
@[simp] theorem State.key_consumeRnd (s : State) (k : Reg) : s.consumeRnd.key k = s.key k := rfl
@[simp] theorem State.pixel_consumeRnd (s : State) (px py : Nat) : s.consumeRnd.pixel px py = s.pixel px py := rfl

/-! ### State.setWait (R36) -/

@[simp] theorem State.setWait_cfg (s : State) (w : Option Reg) : (s.setWait w).cfg = s.cfg := rfl
@[simp] theorem State.setWait_mem (s : State) (w : Option Reg) : (s.setWait w).mem = s.mem := rfl
@[simp] theorem State.setWait_v (s : State) (w : Option Reg) : (s.setWait w).v = s.v := rfl
@[simp] theorem State.setWait_i (s : State) (w : Option Reg) : (s.setWait w).i = s.i := rfl
@[simp] theorem State.setWait_pc (s : State) (w : Option Reg) : (s.setWait w).pc = s.pc := rfl
@[simp] theorem State.setWait_sp (s : State) (w : Option Reg) : (s.setWait w).sp = s.sp := rfl
@[simp] theorem State.setWait_stack (s : State) (w : Option Reg) : (s.setWait w).stack = s.stack := rfl
@[simp] theorem State.setWait_dt (s : State) (w : Option Reg) : (s.setWait w).dt = s.dt := rfl
@[simp] theorem State.setWait_st (s : State) (w : Option Reg) : (s.setWait w).st = s.st := rfl
@[simp] theorem State.setWait_keys (s : State) (w : Option Reg) : (s.setWait w).keys = s.keys := rfl
@[simp] theorem State.setWait_fb (s : State) (w : Option Reg) : (s.setWait w).fb = s.fb := rfl
@[simp] theorem State.setWait_redraw (s : State) (w : Option Reg) : (s.setWait w).redraw = s.redraw := rfl
@[simp] theorem State.setWait_wait (s : State) (w : Option Reg) : (s.setWait w).wait = w := rfl
@[simp] theorem State.setWait_status (s : State) (w : Option Reg) : (s.setWait w).status = s.status := rfl
@[simp] theorem State.setWait_draws (s : State) (w : Option Reg) : (s.setWait w).draws = s.draws := rfl
@[simp] theorem State.setWait_out (s : State) (w : Option Reg) : (s.setWait w).out = s.out := rfl
@[simp] theorem State.reg_setWait (s : State) (w : Option Reg) (y : Reg) : (s.setWait w).reg y = s.reg y := rfl
@[simp] theorem State.byteAt_setWait (s : State) (w : Option Reg) (c : Nat) : (s.setWait w).byteAt c = s.byteAt c := rfl
@[simp] theorem State.key_setWait (s : State) (w : Option Reg) (k : Reg) : (s.setWait w).key k = s.key k := rfl
@[simp] theorem State.pixel_setWait (s : State) (w : Option Reg) (px py : Nat) : (s.setWait w).pixel px py = s.pixel px py := rfl

/-! ### State.emit (R11) -/

@[simp] theorem State.emit_cfg (s : State) (r : Option StepResult) (b : Bool) (w : Option DecodeWarning) : (s.emit r b w).cfg = s.cfg := rfl
@[simp] theorem State.emit_mem (s : State) (r : Option StepResult) (b : Bool) (w : Option DecodeWarning) : (s.emit r b w).mem = s.mem := rfl
@[simp] theorem State.emit_v (s : State) (r : Option StepResult) (b : Bool) (w : Option DecodeWarning) : (s.emit r b w).v = s.v := rfl
@[simp] theorem State.emit_i (s : State) (r : Option StepResult) (b : Bool) (w : Option DecodeWarning) : (s.emit r b w).i = s.i := rfl
@[simp] theorem State.emit_pc (s : State) (r : Option StepResult) (b : Bool) (w : Option DecodeWarning) : (s.emit r b w).pc = s.pc := rfl
@[simp] theorem State.emit_sp (s : State) (r : Option StepResult) (b : Bool) (w : Option DecodeWarning) : (s.emit r b w).sp = s.sp := rfl
@[simp] theorem State.emit_stack (s : State) (r : Option StepResult) (b : Bool) (w : Option DecodeWarning) : (s.emit r b w).stack = s.stack := rfl
@[simp] theorem State.emit_dt (s : State) (r : Option StepResult) (b : Bool) (w : Option DecodeWarning) : (s.emit r b w).dt = s.dt := rfl
@[simp] theorem State.emit_st (s : State) (r : Option StepResult) (b : Bool) (w : Option DecodeWarning) : (s.emit r b w).st = s.st := rfl
@[simp] theorem State.emit_keys (s : State) (r : Option StepResult) (b : Bool) (w : Option DecodeWarning) : (s.emit r b w).keys = s.keys := rfl
@[simp] theorem State.emit_fb (s : State) (r : Option StepResult) (b : Bool) (w : Option DecodeWarning) : (s.emit r b w).fb = s.fb := rfl
@[simp] theorem State.emit_redraw (s : State) (r : Option StepResult) (b : Bool) (w : Option DecodeWarning) : (s.emit r b w).redraw = s.redraw := rfl
@[simp] theorem State.emit_wait (s : State) (r : Option StepResult) (b : Bool) (w : Option DecodeWarning) : (s.emit r b w).wait = s.wait := rfl
@[simp] theorem State.emit_status (s : State) (r : Option StepResult) (b : Bool) (w : Option DecodeWarning) : (s.emit r b w).status = s.status := rfl
@[simp] theorem State.emit_draws (s : State) (r : Option StepResult) (b : Bool) (w : Option DecodeWarning) : (s.emit r b w).draws = s.draws := rfl
@[simp] theorem State.emit_out (s : State) (r : Option StepResult) (b : Bool) (w : Option DecodeWarning) : (s.emit r b w).out = { result := r, beep := b, warning := w } := rfl
@[simp] theorem State.reg_emit (s : State) (r : Option StepResult) (b : Bool) (w : Option DecodeWarning) (y : Reg) : (s.emit r b w).reg y = s.reg y := rfl
@[simp] theorem State.byteAt_emit (s : State) (r : Option StepResult) (b : Bool) (w : Option DecodeWarning) (c : Nat) : (s.emit r b w).byteAt c = s.byteAt c := rfl
@[simp] theorem State.key_emit (s : State) (r : Option StepResult) (b : Bool) (w : Option DecodeWarning) (k : Reg) : (s.emit r b w).key k = s.key k := rfl
@[simp] theorem State.pixel_emit (s : State) (r : Option StepResult) (b : Bool) (w : Option DecodeWarning) (px py : Nat) : (s.emit r b w).pixel px py = s.pixel px py := rfl

/-! ### State.setKeys (R215) -/

@[simp] theorem State.setKeys_cfg (s : State) (k : Vector Bool 16) : (s.setKeys k).cfg = s.cfg := rfl
@[simp] theorem State.setKeys_mem (s : State) (k : Vector Bool 16) : (s.setKeys k).mem = s.mem := rfl
@[simp] theorem State.setKeys_v (s : State) (k : Vector Bool 16) : (s.setKeys k).v = s.v := rfl
@[simp] theorem State.setKeys_i (s : State) (k : Vector Bool 16) : (s.setKeys k).i = s.i := rfl
@[simp] theorem State.setKeys_pc (s : State) (k : Vector Bool 16) : (s.setKeys k).pc = s.pc := rfl
@[simp] theorem State.setKeys_sp (s : State) (k : Vector Bool 16) : (s.setKeys k).sp = s.sp := rfl
@[simp] theorem State.setKeys_stack (s : State) (k : Vector Bool 16) : (s.setKeys k).stack = s.stack := rfl
@[simp] theorem State.setKeys_dt (s : State) (k : Vector Bool 16) : (s.setKeys k).dt = s.dt := rfl
@[simp] theorem State.setKeys_st (s : State) (k : Vector Bool 16) : (s.setKeys k).st = s.st := rfl
@[simp] theorem State.setKeys_keys (s : State) (k : Vector Bool 16) : (s.setKeys k).keys = k := rfl
@[simp] theorem State.setKeys_fb (s : State) (k : Vector Bool 16) : (s.setKeys k).fb = s.fb := rfl
@[simp] theorem State.setKeys_redraw (s : State) (k : Vector Bool 16) : (s.setKeys k).redraw = s.redraw := rfl
@[simp] theorem State.setKeys_wait (s : State) (k : Vector Bool 16) : (s.setKeys k).wait = s.wait := rfl
@[simp] theorem State.setKeys_status (s : State) (k : Vector Bool 16) : (s.setKeys k).status = s.status := rfl
@[simp] theorem State.setKeys_draws (s : State) (k : Vector Bool 16) : (s.setKeys k).draws = s.draws := rfl
@[simp] theorem State.setKeys_out (s : State) (k : Vector Bool 16) : (s.setKeys k).out = s.out := rfl
@[simp] theorem State.reg_setKeys (s : State) (k : Vector Bool 16) (y : Reg) : (s.setKeys k).reg y = s.reg y := rfl
@[simp] theorem State.byteAt_setKeys (s : State) (k : Vector Bool 16) (c : Nat) : (s.setKeys k).byteAt c = s.byteAt c := rfl
@[simp] theorem State.pixel_setKeys (s : State) (k : Vector Bool 16) (px py : Nat) : (s.setKeys k).pixel px py = s.pixel px py := rfl

/-! ### State.clearRedraw (R35) -/

@[simp] theorem State.clearRedraw_cfg (s : State) : s.clearRedraw.cfg = s.cfg := rfl
@[simp] theorem State.clearRedraw_mem (s : State) : s.clearRedraw.mem = s.mem := rfl
@[simp] theorem State.clearRedraw_v (s : State) : s.clearRedraw.v = s.v := rfl
@[simp] theorem State.clearRedraw_i (s : State) : s.clearRedraw.i = s.i := rfl
@[simp] theorem State.clearRedraw_pc (s : State) : s.clearRedraw.pc = s.pc := rfl
@[simp] theorem State.clearRedraw_sp (s : State) : s.clearRedraw.sp = s.sp := rfl
@[simp] theorem State.clearRedraw_stack (s : State) : s.clearRedraw.stack = s.stack := rfl
@[simp] theorem State.clearRedraw_dt (s : State) : s.clearRedraw.dt = s.dt := rfl
@[simp] theorem State.clearRedraw_st (s : State) : s.clearRedraw.st = s.st := rfl
@[simp] theorem State.clearRedraw_keys (s : State) : s.clearRedraw.keys = s.keys := rfl
@[simp] theorem State.clearRedraw_fb (s : State) : s.clearRedraw.fb = s.fb := rfl
@[simp] theorem State.clearRedraw_redraw (s : State) : s.clearRedraw.redraw = false := rfl
@[simp] theorem State.clearRedraw_wait (s : State) : s.clearRedraw.wait = s.wait := rfl
@[simp] theorem State.clearRedraw_status (s : State) : s.clearRedraw.status = s.status := rfl
@[simp] theorem State.clearRedraw_draws (s : State) : s.clearRedraw.draws = s.draws := rfl
@[simp] theorem State.clearRedraw_out (s : State) : s.clearRedraw.out = s.out := rfl
@[simp] theorem State.reg_clearRedraw (s : State) (y : Reg) : s.clearRedraw.reg y = s.reg y := rfl
@[simp] theorem State.byteAt_clearRedraw (s : State) (c : Nat) : s.clearRedraw.byteAt c = s.byteAt c := rfl
@[simp] theorem State.key_clearRedraw (s : State) (k : Reg) : s.clearRedraw.key k = s.key k := rfl
@[simp] theorem State.pixel_clearRedraw (s : State) (px py : Nat) : s.clearRedraw.pixel px py = s.pixel px py := rfl

end Sys2Proof.Machine
end

