-- ==== Sys2Proof/Laws/Ops.lean ====
section
/-! SUPPORT. One lemma for each shared operation that says what it does, for proofs to cite instead of unfolding it. -/

namespace Sys2Proof.Machine

/-! ## Memory -/

@[simp] theorem State.byteAt_setByte_of_ne (s : State) (a c : Nat) (b : Byte) (h : c ≠ a) :
    (s.setByte a b).byteAt c = s.byteAt c := Memory.read_write_of_ne _ _ _ _ _ h

theorem State.byteAt_setByte (s : State) (a c : Nat) (b : Byte) (h : Memory.wf s.cfg.fontRom s.mem) :
    (s.setByte a b).byteAt c = if c = a then b else s.byteAt c := Memory.read_write _ _ _ _ _ h.1

theorem State.wf_setByte (s : State) (a : Nat) (b : Byte) (ha : a < 4096) (h : Memory.wf s.cfg.fontRom s.mem) :
    Memory.wf (s.setByte a b).cfg.fontRom (s.setByte a b).mem := Memory.wf_write _ _ _ _ ha h

/-- `setBytes` touches memory alone. -/
theorem State.setBytes_eq (s : State) (a : Nat) (bs : List Byte) :
    s.setBytes a bs = { s with mem := (s.setBytes a bs).mem } := by
  induction bs generalizing s a with
  | nil => rfl
  | cons b bs ih => simpa [State.setBytes, State.setByte] using ih (s.setByte a b) (a + 1)

@[simp] theorem State.setBytes_cfg (s : State) (a : Nat) (bs : List Byte) : (s.setBytes a bs).cfg = s.cfg := by
  rw [State.setBytes_eq]
@[simp] theorem State.setBytes_v (s : State) (a : Nat) (bs : List Byte) : (s.setBytes a bs).v = s.v := by
  rw [State.setBytes_eq]
@[simp] theorem State.setBytes_i (s : State) (a : Nat) (bs : List Byte) : (s.setBytes a bs).i = s.i := by
  rw [State.setBytes_eq]
@[simp] theorem State.setBytes_pc (s : State) (a : Nat) (bs : List Byte) : (s.setBytes a bs).pc = s.pc := by
  rw [State.setBytes_eq]
@[simp] theorem State.setBytes_sp (s : State) (a : Nat) (bs : List Byte) : (s.setBytes a bs).sp = s.sp := by
  rw [State.setBytes_eq]
@[simp] theorem State.setBytes_stack (s : State) (a : Nat) (bs : List Byte) : (s.setBytes a bs).stack = s.stack := by
  rw [State.setBytes_eq]
@[simp] theorem State.setBytes_dt (s : State) (a : Nat) (bs : List Byte) : (s.setBytes a bs).dt = s.dt := by
  rw [State.setBytes_eq]
@[simp] theorem State.setBytes_st (s : State) (a : Nat) (bs : List Byte) : (s.setBytes a bs).st = s.st := by
  rw [State.setBytes_eq]
@[simp] theorem State.setBytes_keys (s : State) (a : Nat) (bs : List Byte) : (s.setBytes a bs).keys = s.keys := by
  rw [State.setBytes_eq]
@[simp] theorem State.setBytes_fb (s : State) (a : Nat) (bs : List Byte) : (s.setBytes a bs).fb = s.fb := by
  rw [State.setBytes_eq]
@[simp] theorem State.setBytes_redraw (s : State) (a : Nat) (bs : List Byte) : (s.setBytes a bs).redraw = s.redraw := by
  rw [State.setBytes_eq]
@[simp] theorem State.setBytes_wait (s : State) (a : Nat) (bs : List Byte) : (s.setBytes a bs).wait = s.wait := by
  rw [State.setBytes_eq]
@[simp] theorem State.setBytes_status (s : State) (a : Nat) (bs : List Byte) : (s.setBytes a bs).status = s.status := by
  rw [State.setBytes_eq]
@[simp] theorem State.setBytes_draws (s : State) (a : Nat) (bs : List Byte) : (s.setBytes a bs).draws = s.draws := by
  rw [State.setBytes_eq]
@[simp] theorem State.setBytes_out (s : State) (a : Nat) (bs : List Byte) : (s.setBytes a bs).out = s.out := by
  rw [State.setBytes_eq]

/-- Outside the bytes written memory reads as before, whatever form the list has. -/
theorem State.byteAt_setBytes_of_outside (s : State) (a : Nat) (bs : List Byte) (c : Nat)
    (h : c < a ∨ a + bs.length ≤ c) : (s.setBytes a bs).byteAt c = s.byteAt c := by
  induction bs generalizing s a with
  | nil => rfl
  | cons b bs ih =>
    simp only [List.length_cons] at h
    rw [State.setBytes, ih (s.setByte a b) (a + 1) (by omega), State.byteAt_setByte_of_ne _ _ _ _ (by omega)]

theorem State.wf_setBytes (s : State) (a : Nat) (bs : List Byte) (ha : a + bs.length ≤ 4096)
    (h : Memory.wf s.cfg.fontRom s.mem) : Memory.wf s.cfg.fontRom (s.setBytes a bs).mem := by
  induction bs generalizing s a with
  | nil => exact h
  | cons b bs ih =>
    simp only [List.length_cons] at ha
    exact ih (s.setByte a b) (a + 1) (by omega) (State.wf_setByte s a b (by omega) h)

/-- The k-th byte written is what its cell then reads. -/
theorem State.byteAt_setBytes (s : State) (a : Nat) (bs : List Byte) (h : Memory.wf s.cfg.fontRom s.mem)
    (ha : a + bs.length ≤ 4096) (k : Nat) (hk : k < bs.length) : (s.setBytes a bs).byteAt (a + k) = bs[k] := by
  induction bs generalizing s a k with
  | nil => simp at hk
  | cons b bs ih =>
    simp only [List.length_cons] at ha hk
    have hw := State.wf_setByte s a b (by omega) h
    cases k with
    | zero =>
      rw [State.setBytes, State.byteAt_setBytes_of_outside _ _ _ _ (by omega),
        State.byteAt_setByte s a _ b h, if_pos (Nat.add_zero a), List.getElem_cons_zero]
    | succ k =>
      have := ih (s.setByte a b) (a + 1) hw (by omega) k (by omega)
      rwa [Nat.add_right_comm] at this

/-- Only a read of memory and the reset content decide `byteAt`. -/
theorem State.byteAt_congr (s t : State) (hc : t.cfg = s.cfg) (hm : t.mem = s.mem) (a : Nat) :
    t.byteAt a = s.byteAt a := by simp only [State.byteAt, hc, hm]

theorem State.memRead_ok (s : State) (a : Nat) (h : a ≤ 0xFFF) : s.memRead a = .ok (s.byteAt a) := by
  rw [State.memRead, if_neg (by omega)]

theorem State.memRead_error (s : State) (a : Nat) (h : a > 0xFFF) : s.memRead a = .error (.indexOutOfRange a) := by
  rw [State.memRead, if_pos h]

/-- Fetch succeeds where both bytes exist (R71). -/
theorem State.fetch_ok (s : State) (h : s.pc.toNat ≤ 0xFFE) :
    s.fetch = .ok (wordOfBytes (s.byteAt s.pc.toNat) (s.byteAt (s.pc.toNat + 1))) := by
  rw [State.fetch, State.memRead_ok _ _ (by omega), State.memRead_ok _ _ (by omega)]

/-- Fetch fails elsewhere, at the lowest address that does not exist (R71). -/
theorem State.fetch_error (s : State) (h : s.pc.toNat > 0xFFE) :
    s.fetch = .error (.indexOutOfRange (max s.pc.toNat 0x1000)) := by
  rw [State.fetch]
  by_cases h1 : s.pc.toNat > 0xFFF
  · rw [State.memRead_error _ _ h1, Nat.max_eq_left (by omega)]
  · have h2 : s.pc.toNat = 0xFFF := by omega
    rw [State.memRead_ok _ _ (by omega), State.memRead_error _ _ (by omega), h2]
    rfl

/-- No fault where every byte exists (R54). -/
theorem rangeFault_none (base n : Nat) (h : n = 0 ∨ base + n ≤ 4096) : rangeFault base n = none := by
  rw [rangeFault, if_neg (by omega)]

/-- A fault, at the lowest bad address, where some byte does not exist (R54). -/
theorem rangeFault_some (base n : Nat) (h : n ≠ 0 ∧ base + n > 4096) :
    rangeFault base n = some (.indexOutOfRange (max base 0x1000)) := by
  rw [rangeFault, if_pos (by omega)]

/-- What `rangeFault` can answer, and when. -/
theorem rangeFault_cases (base n : Nat) :
    (rangeFault base n = none ∧ (n = 0 ∨ base + n ≤ 4096)) ∨
      (rangeFault base n = some (.indexOutOfRange (max base 0x1000)) ∧ n ≠ 0 ∧ base + n > 4096) := by
  by_cases h : n = 0 ∨ base + n ≤ 4096
  · exact .inl ⟨rangeFault_none base n h, h⟩
  · exact .inr ⟨rangeFault_some base n (by omega), by omega⟩

/-! ## Registers -/

@[simp] theorem State.reg_setReg (s : State) (x y : Reg) (b : Byte) :
    (s.setReg x b).reg y = if y = x then b else s.reg y := by
  simp only [State.reg, State.setReg, Vector.getElem_set, Fin.ext_iff, eq_comm]

/-- Only the register file decides `reg`. -/
theorem State.reg_congr (s t : State) (h : t.v = s.v) (x : Reg) : t.reg x = s.reg x := by simp only [State.reg, h]

/-- A flag writer leaves the flag in VF, the result in VX where X is not F, and every other register alone (R9, R22). -/
theorem State.reg_setRegFlag (s : State) (x y : Reg) (r f : Byte) :
    (s.setRegFlag x r f).reg y = if y = regF then f else if y = x then r else s.reg y := by
  simp [State.setRegFlag]

/-- `setRegs` touches the register file alone. -/
theorem State.setRegs_eq (s : State) (x : Nat) (bs : List Byte) :
    s.setRegs x bs = { s with v := (s.setRegs x bs).v } := by
  induction bs generalizing s x with
  | nil => rfl
  | cons b bs ih =>
    rw [State.setRegs]
    split_ifs
    · simpa [State.setReg] using ih (s.setReg ⟨x, by assumption⟩ b) (x + 1)
    · exact ih s (x + 1)

/-- What `setRegs` leaves in each register. -/
theorem State.reg_setRegs (s : State) (x : Nat) (bs : List Byte) (y : Reg) :
    (s.setRegs x bs).reg y = if h : x ≤ y.val ∧ y.val - x < bs.length then bs[y.val - x]'h.2 else s.reg y := by
  induction bs generalizing s x with
  | nil => simp [State.setRegs]
  | cons b bs ih =>
    rw [State.setRegs, ih]
    by_cases hx : x < 16
    · rw [dif_pos hx, State.reg_setReg]
      by_cases hy : y.val = x
      · have : y = ⟨x, hx⟩ := Fin.ext hy
        subst this
        simp
      · have hne : y ≠ ⟨x, hx⟩ := fun h => hy (congrArg Fin.val h)
        rw [if_neg hne]
        by_cases hc : x + 1 ≤ y.val ∧ y.val - (x + 1) < bs.length
        · have e : y.val - x = (y.val - (x + 1)) + 1 := by omega
          rw [dif_pos hc, dif_pos (by simp only [List.length_cons]; omega)]
          simp [e]
        · rw [dif_neg hc, dif_neg (by simp only [List.length_cons]; omega)]
    · have := y.isLt
      rw [dif_neg hx, dif_neg (by omega), dif_neg (by omega)]

theorem State.length_regsUpTo (s : State) (x : Reg) : (s.regsUpTo x).length = x.val + 1 := by
  simp [State.regsUpTo]

theorem State.getElem_regsUpTo (s : State) (x : Reg) (k : Nat) (h : k < x.val + 1) :
    (s.regsUpTo x)[k]'(by rw [State.length_regsUpTo]; exact h) = s.reg ⟨k, by omega⟩ := by
  simp [State.regsUpTo, State.reg]

theorem State.length_bytesAtI (s : State) (n : Nat) : (s.bytesAtI n).length = n := by simp [State.bytesAtI]

theorem State.getElem_bytesAtI (s : State) (n k : Nat) (h : k < n) :
    (s.bytesAtI n)[k]'(by rw [State.length_bytesAtI]; exact h) = s.byteAt (s.i.toNat + k) := by
  simp [State.bytesAtI, State.ea]

/-! ## Faults and the stack -/

/-- Without a fault the instruction has its own effect. -/
@[simp] theorem State.guarded_none (s : State) (i : Instr) (t : State) : s.guarded i none t = t := rfl

/-- With one it takes the fault, with its own word in the record. -/
@[simp] theorem State.guarded_some (s : State) (i : Instr) (f : Fault) (t : State) :
    s.guarded i (some f) t = s.raise (some (encode i)) f := rfl

theorem State.pushFault_cases (s : State) :
    (s.pushFault = none ∧ s.sp.val < 16) ∨ (s.pushFault = some .stackOverflow ∧ s.sp = 16) := by
  unfold State.pushFault
  split_ifs with h
  · exact .inr ⟨rfl, h⟩
  · refine .inl ⟨rfl, ?_⟩
    have := s.sp.isLt
    have : s.sp.val ≠ 16 := fun e => h (Fin.ext e)
    omega

theorem State.popFault_cases (s : State) :
    (s.popFault = none ∧ 0 < s.sp.val) ∨ (s.popFault = some .stackUnderflow ∧ s.sp = 0) := by
  unfold State.popFault
  split_ifs with h
  · exact .inr ⟨rfl, h⟩
  · refine .inl ⟨rfl, Nat.pos_of_ne_zero fun e => h (Fin.ext e)⟩

theorem State.push_eq (s : State) (w : Word) (h : s.sp.val < 16) :
    s.push w = { s with stack := s.stack.set s.sp.val w, sp := ⟨s.sp.val + 1, by omega⟩ } := by
  rw [State.push, dif_pos h]

/-! ## Skips, keys and timers -/

theorem State.skipIf_eq (s : State) (c : Bool) : s.skipIf c = s.setPc (if c then s.pc + 4 else s.pc + 2) := by
  cases c <;> rfl

theorem State.keyFault_cases (s : State) (x : Reg) :
    (s.keyFault x = none ∧ (s.reg x).toNat < 16) ∨
      (s.keyFault x = some (.keyIndexOutOfRange (s.reg x)) ∧ (s.reg x).toNat > 15) := by
  unfold State.keyFault
  split_ifs with h
  · exact .inr ⟨rfl, h⟩
  · exact .inl ⟨rfl, by omega⟩

theorem State.keyOf_eq (s : State) (x : Reg) (h : (s.reg x).toNat < 16) : s.keyOf x = s.key ⟨(s.reg x).toNat, h⟩ := by
  rw [State.keyOf, dif_pos h]

/-- `lowestKey` is the least pressed key (R204). -/
theorem State.lowestKey_eq_some (s : State) (k : Reg) :
    s.lowestKey = some k ↔ s.key k = true ∧ ∀ j < k, s.key j = false := by
  unfold State.lowestKey
  rw [List.find?_eq_some_iff_getElem]
  simp only [List.getElem_finRange, List.length_finRange, Bool.not_eq_true']
  constructor
  · rintro ⟨hk, i, hi, rfl, hlt⟩
    exact ⟨hk, fun j hj => by simpa using hlt j.val hj⟩
  · rintro ⟨hk, hlt⟩
    exact ⟨hk, k.val, k.isLt, by simp, fun j hj => by simpa using hlt ⟨j, by omega⟩ hj⟩

theorem State.lowestKey_eq_none (s : State) : s.lowestKey = none ↔ ∀ k, s.key k = false := by
  simp [State.lowestKey]

/-- R211 on one timer: down by one, and never below zero. -/
theorem toNat_countDown (b : Byte) : (countDown b).toNat = b.toNat - 1 := by
  unfold countDown
  split_ifs with h
  · subst h; rfl
  · have : b.toNat ≠ 0 := fun e => h (BitVec.eq_of_toNat_eq e)
    have := b.isLt
    rw [BitVec.toNat_sub, show (1 : Byte).toNat = 1 from rfl]
    omega

/-! ## Framebuffer -/

/-- Inverting one pixel inverts that pixel and no other (R33, R101). -/
theorem Framebuffer.pixel_flip (fb : Framebuffer) {x y px py : Nat} (hpx : px < 64) (hpy : py < 32) :
    Framebuffer.pixel (Framebuffer.flip fb px py) x y =
      (Framebuffer.pixel fb x y ^^ decide (x = px ∧ y = py)) := by
  unfold Framebuffer.pixel Framebuffer.flip
  rw [dif_pos hpy]
  by_cases hy : y < 32
  · rw [dif_pos hy, dif_pos hy, Vector.getElem_set]
    by_cases he : py = y
    · subst he
      simp only [if_true, BitVec.getLsbD_xor, BitVec.getLsbD_twoPow, hpx, decide_true, Bool.true_and, and_true]
      rw [decide_eq_decide.2 eq_comm]
    · rw [if_neg he, decide_eq_false (by rintro ⟨-, rfl⟩; exact he rfl), Bool.xor_false]
  · rw [dif_neg hy, dif_neg hy, decide_eq_false (by omega), Bool.xor_false]

/-- The blank screen is blank. -/
@[simp] theorem Framebuffer.pixel_blank (x y : Nat) : Framebuffer.pixel Framebuffer.blank x y = false := by
  unfold Framebuffer.pixel Framebuffer.blank
  split_ifs <;> simp

/-- Two framebuffers with the same pixels are the same data. -/
theorem Framebuffer.ext_pixel {fb fb' : Framebuffer}
    (h : ∀ x y, x < 64 → y < 32 → Framebuffer.pixel fb x y = Framebuffer.pixel fb' x y) : fb = fb' := by
  refine Vector.ext fun y hy => BitVec.eq_of_getLsbD_eq fun x hx => ?_
  simpa [Framebuffer.pixel, hy] using h x y hx hy

end Sys2Proof.Machine
end

