-- ==== Sys2Proof/Laws/Display.lean ====
section
/-! SUPPORT. What drawing does, pixel by pixel: the sequential draw engine against the sprite's own picture. -/

namespace Sys2Proof.Machine

/-- One plotted bit inverts its own pixel and no other; off screen it inverts none (R104). -/
theorem pixel_plot (c : Canvas) (px py : Nat) {x y : Nat} (hx : x < 64) (hy : y < 32) :
    Framebuffer.pixel (plot c px py).1 x y = (Framebuffer.pixel c.1 x y ^^ decide (x = px ∧ y = py)) := by
  unfold plot
  split_ifs with h
  · exact Framebuffer.pixel_flip _ h.1 h.2
  · rw [decide_eq_false (by rintro ⟨rfl, rfl⟩; exact h ⟨hx, hy⟩), Bool.xor_false]

/-- It collides exactly when its pixel is on the screen and was 1 (R103). -/
theorem collision_plot (c : Canvas) (px py : Nat) :
    (plot c px py).2 = (c.2 || (decide (px < 64 ∧ py < 32) && Framebuffer.pixel c.1 px py)) := by
  unfold plot
  split_ifs with h <;> simp [h]

/-- The first `n` columns of a row, drawn from column `x0` on row `py`. -/
def drawCols (row : Byte) (x0 py n : Nat) (c : Canvas) : Canvas :=
  (List.range n).foldl (fun c k => if row.getLsbD (7 - k) then plot c (x0 + k) py else c) c

theorem drawRow_eq (row : Byte) (x0 py : Nat) (c : Canvas) : drawRow row x0 py c = drawCols row x0 py 8 c := rfl

theorem drawCols_succ (row : Byte) (x0 py n : Nat) (c : Canvas) :
    drawCols row x0 py (n + 1) c =
      if row.getLsbD (7 - n) then plot (drawCols row x0 py n c) (x0 + n) py else drawCols row x0 py n c := by
  simp only [drawCols, List.range_succ, List.foldl_append, List.foldl_cons, List.foldl_nil]

theorem pixel_drawCols (row : Byte) (x0 py n : Nat) (c : Canvas) {x y : Nat} (hx : x < 64) (hy : y < 32) :
    Framebuffer.pixel (drawCols row x0 py n c).1 x y =
      (Framebuffer.pixel c.1 x y ^^ decide (y = py ∧ x0 ≤ x ∧ x < x0 + n ∧ row.getLsbD (7 - (x - x0)) = true)) := by
  induction n with
  | zero => rw [decide_eq_false (by omega), Bool.xor_false]; rfl
  | succ n ih =>
    rw [drawCols_succ]
    by_cases hb : row.getLsbD (7 - n) = true
    · rw [if_pos hb, pixel_plot _ _ _ hx hy, ih, Bool.xor_assoc]
      congr 1
      by_cases he : x = x0 + n
      · subst he
        by_cases hpy : y = py <;> simp [hb, hpy]
      · rw [decide_eq_false (p := x = x0 + n ∧ y = py) (by tauto), Bool.xor_false, decide_eq_decide]
        constructor <;> rintro ⟨a, b, d, e⟩ <;> exact ⟨a, b, by omega, e⟩
    · rw [if_neg hb, ih]
      congr 1
      rw [decide_eq_decide]
      constructor
      · rintro ⟨a, b, d, e⟩; exact ⟨a, b, by omega, e⟩
      · rintro ⟨a, b, d, e⟩
        refine ⟨a, b, ?_, e⟩
        by_contra hc
        have : x - x0 = n := by omega
        exact hb (this ▸ e)

theorem collision_drawCols (row : Byte) (x0 py n : Nat) (c : Canvas) :
    (drawCols row x0 py n c).2 = true ↔ c.2 = true ∨
      ∃ k < n, row.getLsbD (7 - k) = true ∧ x0 + k < 64 ∧ py < 32 ∧ Framebuffer.pixel c.1 (x0 + k) py = true := by
  induction n with
  | zero => simp [drawCols]
  | succ n ih =>
    rw [drawCols_succ]
    by_cases hb : row.getLsbD (7 - n) = true
    · rw [if_pos hb, collision_plot, Bool.or_eq_true, ih, Bool.and_eq_true, decide_eq_true_eq]
      constructor
      · rintro ((h | ⟨k, hk, h⟩) | ⟨⟨h1, h2⟩, h3⟩)
        · exact .inl h
        · exact .inr ⟨k, by omega, h⟩
        · rw [pixel_drawCols _ _ _ _ _ h1 h2] at h3
          exact .inr ⟨n, by omega, hb, h1, h2, by simpa using h3⟩
      · rintro (h | ⟨k, hk, h1, h2, h3, h4⟩)
        · exact .inl (.inl h)
        · by_cases hkn : k = n
          · subst hkn
            exact .inr ⟨⟨h2, h3⟩, by rw [pixel_drawCols _ _ _ _ _ h2 h3]; simpa using h4⟩
          · exact .inl (.inr ⟨k, by omega, h1, h2, h3, h4⟩)
    · rw [if_neg hb, ih]
      constructor
      · rintro (h | ⟨k, hk, h⟩)
        · exact .inl h
        · exact .inr ⟨k, by omega, h⟩
      · rintro (h | ⟨k, hk, h⟩)
        · exact .inl h
        · refine .inr ⟨k, ?_, h⟩
          rcases Nat.lt_succ_iff_lt_or_eq.1 hk with h' | rfl
          · exact h'
          · exact absurd h.1 hb

/-- The picture of a sprite at (x0, y0): which screen coordinates one of its 1 bits covers (R102). -/
def Covers (x0 y0 : Nat) (rows : List Byte) (x y : Nat) : Prop :=
  x0 ≤ x ∧ x < x0 + 8 ∧ y0 ≤ y ∧ ∃ row, rows[y - y0]? = some row ∧ row.getLsbD (7 - (x - x0)) = true

theorem covers_cons (x0 y0 : Nat) (row : Byte) (rows : List Byte) (x y : Nat) :
    Covers x0 y0 (row :: rows) x y ↔
      (y = y0 ∧ x0 ≤ x ∧ x < x0 + 8 ∧ row.getLsbD (7 - (x - x0)) = true) ∨ Covers x0 (y0 + 1) rows x y := by
  unfold Covers
  rcases lt_trichotomy y y0 with h | rfl | h
  · constructor
    · rintro ⟨-, -, h1, -⟩; omega
    · rintro (⟨h1, -⟩ | ⟨-, -, h1, -⟩) <;> omega
  · simp
  · have e : y - y0 = (y - (y0 + 1)) + 1 := by omega
    rw [e, List.getElem?_cons_succ]
    constructor
    · rintro ⟨h1, h2, -, h3⟩; exact .inr ⟨h1, h2, by omega, h3⟩
    · rintro (⟨h1, -⟩ | ⟨h1, h2, -, h3⟩)
      · omega
      · exact ⟨h1, h2, by omega, h3⟩

/-- Drawing inverts exactly the screen pixels the sprite covers (R101, R103, R104). -/
theorem pixel_drawRows (x0 y0 : Nat) (rows : List Byte) (c : Canvas) {x y : Nat} (hx : x < 64) (hy : y < 32) :
    Framebuffer.pixel (drawRows x0 y0 rows c).1 x y = true ↔
      (Framebuffer.pixel c.1 x y = true ↔ ¬ Covers x0 y0 rows x y) := by
  induction rows generalizing y0 c with
  | nil => simp [drawRows, Covers]
  | cons row rows ih =>
    have hrow : Covers x0 (y0 + 1) rows x y → ¬ y = y0 := by rintro ⟨-, -, h, -⟩; omega
    rw [drawRows, ih, drawRow_eq, pixel_drawCols _ _ _ _ _ hx hy, covers_cons]
    by_cases hc : Covers x0 (y0 + 1) rows x y
    · have := hrow hc
      simp [hc, this]
    · by_cases hp : y = y0 ∧ x0 ≤ x ∧ x < x0 + 8 ∧ row.getLsbD (7 - (x - x0)) = true
      · rw [decide_eq_true hp, Bool.xor_true]
        cases Framebuffer.pixel c.1 x y <;> simp only [Bool.not_true, Bool.not_false] <;> tauto
      · rw [decide_eq_false hp, Bool.xor_false]; tauto

/-- It collides exactly when the sprite covers a screen pixel that was 1 (R103). -/
theorem collision_drawRows (x0 y0 : Nat) (rows : List Byte) (c : Canvas) :
    (drawRows x0 y0 rows c).2 = true ↔ c.2 = true ∨
      ∃ x y, x < 64 ∧ y < 32 ∧ Covers x0 y0 rows x y ∧ Framebuffer.pixel c.1 x y = true := by
  induction rows generalizing y0 c with
  | nil => simp [drawRows, Covers]
  | cons row rows ih =>
    rw [drawRows, ih, drawRow_eq, collision_drawCols]
    constructor
    · rintro ((h | ⟨k, hk, h1, h2, h3, h4⟩) | ⟨x, y, hx, hy, hc, hp⟩)
      · exact .inl h
      · exact .inr ⟨x0 + k, y0, h2, h3, (covers_cons ..).2 (.inl ⟨rfl, by omega, by omega, by simpa using h1⟩), h4⟩
      · have hne : ¬ y = y0 := by have := hc.2.2.1; omega
        rw [pixel_drawCols _ _ _ _ _ hx hy] at hp
        exact .inr ⟨x, y, hx, hy, (covers_cons ..).2 (.inr hc), by simpa [hne] using hp⟩
    · rintro (h | ⟨x, y, hx, hy, hc, hp⟩)
      · exact .inl (.inl h)
      · rcases (covers_cons ..).1 hc with ⟨rfl, h1, h2, h3⟩ | hc
        · exact .inl (.inr ⟨x - x0, by omega, h3, by omega, hy, by rwa [show x0 + (x - x0) = x by omega]⟩)
        · have hne : ¬ y = y0 := by have := hc.2.2.1; omega
          exact .inr ⟨x, y, hx, hy, hc, by rw [pixel_drawCols _ _ _ _ _ hx hy]; simpa [hne] using hp⟩

end Sys2Proof.Machine
end

