-- ==== Sys2Proof/Laws/Step.lean ====
section
/-! SUPPORT. What a step can do, said once, and the small laws of frames, of the end of a step and of the host's tick. -/

namespace Sys2Proof.Machine

/-! ## The end of a step (R90, R92) -/

@[simp] theorem State.timerStep_cfg (s : State) : s.timerStep.cfg = s.cfg := by
  unfold State.timerStep; cases s.cfg.tickSource <;> rfl
@[simp] theorem State.timerStep_mem (s : State) : s.timerStep.mem = s.mem := by
  unfold State.timerStep; cases s.cfg.tickSource <;> rfl
@[simp] theorem State.timerStep_v (s : State) : s.timerStep.v = s.v := by
  unfold State.timerStep; cases s.cfg.tickSource <;> rfl
@[simp] theorem State.timerStep_i (s : State) : s.timerStep.i = s.i := by
  unfold State.timerStep; cases s.cfg.tickSource <;> rfl
@[simp] theorem State.timerStep_pc (s : State) : s.timerStep.pc = s.pc := by
  unfold State.timerStep; cases s.cfg.tickSource <;> rfl
@[simp] theorem State.timerStep_sp (s : State) : s.timerStep.sp = s.sp := by
  unfold State.timerStep; cases s.cfg.tickSource <;> rfl
@[simp] theorem State.timerStep_stack (s : State) : s.timerStep.stack = s.stack := by
  unfold State.timerStep; cases s.cfg.tickSource <;> rfl
@[simp] theorem State.timerStep_fb (s : State) : s.timerStep.fb = s.fb := by
  unfold State.timerStep; cases s.cfg.tickSource <;> rfl
@[simp] theorem State.timerStep_redraw (s : State) : s.timerStep.redraw = s.redraw := by
  unfold State.timerStep; cases s.cfg.tickSource <;> rfl
@[simp] theorem State.timerStep_wait (s : State) : s.timerStep.wait = s.wait := by
  unfold State.timerStep; cases s.cfg.tickSource <;> rfl
@[simp] theorem State.timerStep_status (s : State) : s.timerStep.status = s.status := by
  unfold State.timerStep; cases s.cfg.tickSource <;> rfl
@[simp] theorem State.timerStep_keys (s : State) : s.timerStep.keys = s.keys := by
  unfold State.timerStep; cases s.cfg.tickSource <;> rfl
@[simp] theorem State.timerStep_draws (s : State) : s.timerStep.draws = s.draws := by
  unfold State.timerStep; cases s.cfg.tickSource <;> rfl
@[simp] theorem State.timerStep_out (s : State) : s.timerStep.out = s.out := by
  unfold State.timerStep; cases s.cfg.tickSource <;> rfl

theorem State.timerStep_perCycle (s : State) (h : s.cfg.tickSource = .perCycle) : s.timerStep = s.tick := by
  rw [State.timerStep, h]

theorem State.timerStep_external (s : State) (h : s.cfg.tickSource = .external) : s.timerStep = s := by
  rw [State.timerStep, h]

/-- A step that ends Ready is Completed and ticks once (R92). -/
theorem State.finish_ready (s : State) (w : Option DecodeWarning) (h : s.Ready) :
    s.finish w = s.timerStep.emit (some .completed) s.timerStepBeeps w := by
  rw [State.finish, h.1, h.2]

/-- A step that ends awaiting a key ticks nothing and emits nothing (R90). -/
theorem State.finish_waiting (s : State) (w : Option DecodeWarning) (x : Reg) (h : s.status = .running)
    (hw : s.wait = some x) : s.finish w = s.emit (some .waiting) false none := by
  rw [State.finish, h, hw]

/-- A step that ends Faulted ticks nothing and emits nothing (R231, R243). -/
theorem State.finish_faulted (s : State) (w : Option DecodeWarning) (r : FaultRecord) (h : s.status = .faulted r) :
    s.finish w = s.emit (some (.faulted r.fault.code)) false none := by
  rw [State.finish, h]

@[simp] theorem State.finish_cfg (s : State) (w : Option DecodeWarning) : (s.finish w).cfg = s.cfg := by
  unfold State.finish; split
  · rfl
  · split <;> simp
@[simp] theorem State.finish_mem (s : State) (w : Option DecodeWarning) : (s.finish w).mem = s.mem := by
  unfold State.finish; split
  · rfl
  · split <;> simp
@[simp] theorem State.finish_v (s : State) (w : Option DecodeWarning) : (s.finish w).v = s.v := by
  unfold State.finish; split
  · rfl
  · split <;> simp
@[simp] theorem State.finish_i (s : State) (w : Option DecodeWarning) : (s.finish w).i = s.i := by
  unfold State.finish; split
  · rfl
  · split <;> simp
@[simp] theorem State.finish_pc (s : State) (w : Option DecodeWarning) : (s.finish w).pc = s.pc := by
  unfold State.finish; split
  · rfl
  · split <;> simp
@[simp] theorem State.finish_sp (s : State) (w : Option DecodeWarning) : (s.finish w).sp = s.sp := by
  unfold State.finish; split
  · rfl
  · split <;> simp
@[simp] theorem State.finish_stack (s : State) (w : Option DecodeWarning) : (s.finish w).stack = s.stack := by
  unfold State.finish; split
  · rfl
  · split <;> simp
@[simp] theorem State.finish_fb (s : State) (w : Option DecodeWarning) : (s.finish w).fb = s.fb := by
  unfold State.finish; split
  · rfl
  · split <;> simp
@[simp] theorem State.finish_redraw (s : State) (w : Option DecodeWarning) : (s.finish w).redraw = s.redraw := by
  unfold State.finish; split
  · rfl
  · split <;> simp
@[simp] theorem State.finish_wait (s : State) (w : Option DecodeWarning) : (s.finish w).wait = s.wait := by
  unfold State.finish; split
  · rfl
  · split <;> simp
@[simp] theorem State.finish_status (s : State) (w : Option DecodeWarning) : (s.finish w).status = s.status := by
  unfold State.finish; split
  · rfl
  · split <;> simp
@[simp] theorem State.finish_keys (s : State) (w : Option DecodeWarning) : (s.finish w).keys = s.keys := by
  unfold State.finish; split
  · rfl
  · split <;> simp
@[simp] theorem State.finish_draws (s : State) (w : Option DecodeWarning) : (s.finish w).draws = s.draws := by
  unfold State.finish; split
  · rfl
  · split <;> simp

/-! ## One step -/

/-- Everything a step can do (R90, R239): stay Faulted, poll for a key, fault in the fetch, pass an unknown word, or run
the decoded instruction and finish. -/
theorem step_cases {s t : State} (h : step s = .next t) :
    (∃ r, s.status = .faulted r ∧ t = s.finish none) ∨
    (∃ x, s.status = .running ∧ s.wait = some x ∧ t = (s.awaitKey x).finish none) ∨
    (∃ f, s.Ready ∧ s.fetch = .error f ∧ t = (s.raise none f).finish none) ∨
    (∃ w, s.Ready ∧ s.fetch = .ok w ∧ decodeWord w = none ∧ t = s.advance.finish (some { pc := s.pc, word := w })) ∨
    (∃ w i u, s.Ready ∧ s.fetch = .ok w ∧ decodeWord w = some i ∧ exec i s = .next u ∧ t = u.finish none) := by
  unfold step at h
  split at h
  · next _ r hs => exact .inl ⟨r, hs, by simpa [State.faultedStep, eq_comm] using h⟩
  · next x hs hw => exact .inr (.inl ⟨x, hs, hw, by simpa [State.awaitKeyStep, eq_comm] using h⟩)
  · next hs hw =>
    split at h
    · next f hf => exact .inr (.inr (.inl ⟨f, ⟨hs, hw⟩, hf, by simpa [State.fetchFaultStep, eq_comm] using h⟩))
    · next w hf =>
      split at h
      · next hd => exact .inr (.inr (.inr (.inl ⟨w, ⟨hs, hw⟩, hf, hd, by simpa [State.unknownStep, eq_comm] using h⟩)))
      · next i hd =>
        split at h
        · next u hu => exact .inr (.inr (.inr (.inr ⟨w, i, u, ⟨hs, hw⟩, hf, hd, hu, by simpa [eq_comm] using h⟩)))
        · cases h
        · cases h

/-! ## Frames -/

theorem ChangesOnly.refl (s : State) (parts : Part → Prop) : ChangesOnly s s parts := by
  intro p _; cases p <;> rfl

theorem ChangesOnly.mono {s t : State} {p q : Part → Prop} (h : ChangesOnly s t p) (hpq : ∀ x, p x → q x) :
    ChangesOnly s t q := fun x hx => h x fun hp => hx (hpq x hp)

theorem ChangesOnly.trans {s t u : State} {p : Part → Prop} (h1 : ChangesOnly s t p) (h2 : ChangesOnly t u p) :
    ChangesOnly s u p := by
  intro x hx
  have a := h1 x hx
  have b := h2 x hx
  cases x <;> exact Eq.trans b a

/-- The end of a step writes the timers and the outputs alone. -/
theorem changesOnly_finish (s : State) (w : Option DecodeWarning) :
    ChangesOnly s (s.finish w) fun p => p = .dt ∨ p = .st ∨ p = .out := by
  intro p hp
  cases p <;> simp_all [Part.same, State.byteAt, State.reg]

/-- The end of a step that does not complete writes the outputs alone. -/
theorem changesOnly_emit (s : State) (r : Option StepResult) (b : Bool) (w : Option DecodeWarning) :
    ChangesOnly s (s.emit r b w) fun p => p = .out := by
  intro p hp
  cases p <;> simp_all [Part.same, State.byteAt, State.reg]

/-- Taking a fault writes STATUS alone (R231). -/
theorem took_raise (s : State) (w : Option Word) (f : Fault) : Took s (s.raise w f) f w := by
  refine ⟨rfl, fun p hp => ?_⟩
  cases p <;> simp_all [Part.same, State.byteAt, State.reg]

/-! ## Alike but for the sound timer -/

theorem State.AlikeButSound.refl (s : State) : s.AlikeButSound s := rfl

/-- The second state is the first with another ST and another beep. -/
theorem State.alikeButSound_iff (s t : State) :
    s.AlikeButSound t ↔ t = { s with st := t.st, out := { s.out with beep := t.out.beep } } := by
  unfold State.AlikeButSound
  exact ⟨fun h => by rw [← h], fun h => by rw [h]⟩

theorem State.AlikeButSound.symm {s t : State} (h : s.AlikeButSound t) : t.AlikeButSound s :=
  ((State.alikeButSound_iff s t).1 h).symm

end Sys2Proof.Machine
end

