-- ==== Sys2Proof/Laws/Exec.lean ====
section
/-! SUPPORT. What executing an instruction can do, said once: its fault if its condition holds, else its own effect. -/

namespace Sys2Proof.Machine

/-- An instruction's own effect, where it raises no fault. -/
def effect (s : State) : Instr → State
  | .cls => (s.show Framebuffer.blank).advance
  | .ret => s.popPc
  | .jump nnn => s.setPc (zextAddr nnn)
  | .call nnn => (s.push (s.pc + 2)).setPc (zextAddr nnn)
  | .seImm x nn => s.skipIf (s.reg x == nn)
  | .sneImm x nn => s.skipIf (s.reg x != nn)
  | .seReg x y => s.skipIf (s.reg x == s.reg y)
  | .sneReg x y => s.skipIf (s.reg x != s.reg y)
  | .ldImm x nn => (s.setReg x nn).advance
  | .addImm x nn => (s.setReg x (addResult (s.reg x) nn)).advance
  | .mov x y => (s.setReg x (s.reg y)).advance
  | .orReg x y => (s.setReg x (s.reg x ||| s.reg y)).advance
  | .andReg x y => (s.setReg x (s.reg x &&& s.reg y)).advance
  | .xorReg x y => (s.setReg x (s.reg x ^^^ s.reg y)).advance
  | .addReg x y => (s.setRegFlag x (addResult (s.reg x) (s.reg y)) (carryFlag (s.reg x) (s.reg y))).advance
  | .subReg x y => (s.setRegFlag x (subResult (s.reg x) (s.reg y)) (notBorrowFlag (s.reg x) (s.reg y))).advance
  | .shr x _ => (s.setRegFlag x (shrResult (s.reg x)) (shrFlag (s.reg x))).advance
  | .subnReg x y => (s.setRegFlag x (subResult (s.reg y) (s.reg x)) (notBorrowFlag (s.reg y) (s.reg x))).advance
  | .shl x _ => (s.setRegFlag x (shlResult (s.reg x)) (shlFlag (s.reg x))).advance
  | .ldI nnn => (s.setI (zextAddr nnn)).advance
  | .jumpV0 nnn => s.setPc (s.offsetTarget nnn)
  | .rnd x nn => (s.consumeRnd.setReg x (s.nextRnd &&& nn)).advance
  | .draw x y n =>
    ((s.show (s.drawSprite x y n.val).1).setReg regF (flagOf (s.drawSprite x y n.val).2)).advance
  | .skp x => s.skipIf (s.keyOf x)
  | .sknp x => s.skipIf (!s.keyOf x)
  | .getDt x => (s.setReg x s.dt).advance
  | .waitKey x =>
    match s.lowestKey with
    | some k => (s.setReg x (BitVec.ofNat 8 k.val)).advance
    | none => s.setWait (some x)
  | .setDt x => (s.setDelay (s.reg x)).advance
  | .setSt x => (s.setSound (s.reg x)).advance
  | .addI x => (s.setI (s.indexSum x)).advance
  | .glyph x => (s.setI (s.glyphAddr x)).advance
  | .bcd x => (s.setBytes s.ea (bcdDigits (s.reg x))).advance
  | .store x => (s.setBytes s.ea (s.regsUpTo x)).advance
  | .load x => (s.setRegs 0 (s.bytesAtI (x.val + 1))).advance

theorem rangeFault_eq (base n : Nat) :
    rangeFault base n = if n ≠ 0 ∧ base + n > 0x1000 then some (.indexOutOfRange (max base 0x1000)) else none := by
  unfold rangeFault
  split_ifs <;> first | rfl | omega

/-- Executing any instruction answers a next state: the fault where its condition holds, else the effect (R90, R231). -/
theorem exec_eq (i : Instr) (s : State) : exec i s = .next (s.guarded i (s.raisedBy i) (effect s i)) := by
  cases i
  case ret =>
    simp only [exec, execRet, effect, State.raisedBy, State.popFault, Fin.ext_iff]; rfl
  case call nnn =>
    simp only [exec, execCall, effect, State.raisedBy, State.pushFault, Fin.ext_iff]; rfl
  case draw x y n => simp only [exec, execDraw, effect, State.raisedBy, rangeFault_eq, State.ea]
  case bcd x =>
    simp only [exec, execBcd, effect, State.raisedBy, rangeFault_eq, State.ea]
    congr 3; rw [eq_iff_iff]; omega
  case store x =>
    simp only [exec, execStore, effect, State.raisedBy, rangeFault_eq, State.ea]
    congr 3; rw [eq_iff_iff]; omega
  case load x =>
    simp only [exec, execLoad, effect, State.raisedBy, rangeFault_eq, State.ea]
    congr 3; rw [eq_iff_iff]; omega
  case waitKey x => simp only [exec, execWaitKey, effect, State.raisedBy, State.guarded_none]; cases s.lowestKey <;> rfl
  all_goals rfl

/-- What a next state of an instruction is. -/
theorem exec_cases {i : Instr} {s t : State} (h : exec i s = .next t) :
    (∃ f, s.raisedBy i = some f ∧ t = s.raise (some (encode i)) f) ∨ (s.raisedBy i = none ∧ t = effect s i) := by
  rw [exec_eq] at h
  cases hf : s.raisedBy i with
  | none => exact .inr ⟨rfl, by simpa [hf, eq_comm] using h⟩
  | some f => exact .inl ⟨f, rfl, by simpa [hf, eq_comm] using h⟩

/-! ## What no instruction's own effect changes -/

@[simp] theorem State.setRegs_cfg (s : State) (x : Nat) (bs : List Byte) : (s.setRegs x bs).cfg = s.cfg := by
  rw [State.setRegs_eq]
@[simp] theorem State.setRegs_mem (s : State) (x : Nat) (bs : List Byte) : (s.setRegs x bs).mem = s.mem := by
  rw [State.setRegs_eq]
@[simp] theorem State.setRegs_i (s : State) (x : Nat) (bs : List Byte) : (s.setRegs x bs).i = s.i := by rw [State.setRegs_eq]
@[simp] theorem State.setRegs_pc (s : State) (x : Nat) (bs : List Byte) : (s.setRegs x bs).pc = s.pc := by
  rw [State.setRegs_eq]
@[simp] theorem State.setRegs_sp (s : State) (x : Nat) (bs : List Byte) : (s.setRegs x bs).sp = s.sp := by
  rw [State.setRegs_eq]
@[simp] theorem State.setRegs_stack (s : State) (x : Nat) (bs : List Byte) : (s.setRegs x bs).stack = s.stack := by
  rw [State.setRegs_eq]
@[simp] theorem State.setRegs_dt (s : State) (x : Nat) (bs : List Byte) : (s.setRegs x bs).dt = s.dt := by
  rw [State.setRegs_eq]
@[simp] theorem State.setRegs_st (s : State) (x : Nat) (bs : List Byte) : (s.setRegs x bs).st = s.st := by
  rw [State.setRegs_eq]
@[simp] theorem State.setRegs_keys (s : State) (x : Nat) (bs : List Byte) : (s.setRegs x bs).keys = s.keys := by
  rw [State.setRegs_eq]
@[simp] theorem State.setRegs_fb (s : State) (x : Nat) (bs : List Byte) : (s.setRegs x bs).fb = s.fb := by
  rw [State.setRegs_eq]
@[simp] theorem State.setRegs_redraw (s : State) (x : Nat) (bs : List Byte) : (s.setRegs x bs).redraw = s.redraw := by
  rw [State.setRegs_eq]
@[simp] theorem State.setRegs_wait (s : State) (x : Nat) (bs : List Byte) : (s.setRegs x bs).wait = s.wait := by
  rw [State.setRegs_eq]
@[simp] theorem State.setRegs_status (s : State) (x : Nat) (bs : List Byte) : (s.setRegs x bs).status = s.status := by
  rw [State.setRegs_eq]
@[simp] theorem State.setRegs_draws (s : State) (x : Nat) (bs : List Byte) : (s.setRegs x bs).draws = s.draws := by
  rw [State.setRegs_eq]
@[simp] theorem State.setRegs_out (s : State) (x : Nat) (bs : List Byte) : (s.setRegs x bs).out = s.out := by
  rw [State.setRegs_eq]

@[simp] theorem State.push_cfg (s : State) (w : Word) : (s.push w).cfg = s.cfg := by unfold State.push; split_ifs <;> rfl
@[simp] theorem State.push_keys (s : State) (w : Word) : (s.push w).keys = s.keys := by unfold State.push; split_ifs <;> rfl
@[simp] theorem State.push_status (s : State) (w : Word) : (s.push w).status = s.status := by
  unfold State.push; split_ifs <;> rfl
@[simp] theorem State.push_out (s : State) (w : Word) : (s.push w).out = s.out := by unfold State.push; split_ifs <;> rfl

/-- No instruction writes the parameters. -/
@[simp] theorem effect_cfg (s : State) (i : Instr) : (effect s i).cfg = s.cfg := by
  cases i <;> simp only [effect]
  case waitKey => split <;> rfl
  all_goals simp [State.setRegFlag, State.skipIf_eq]

/-- No instruction writes the input latch (R216). -/
@[simp] theorem effect_keys (s : State) (i : Instr) : (effect s i).keys = s.keys := by
  cases i <;> simp only [effect]
  case waitKey => split <;> rfl
  all_goals simp [State.setRegFlag, State.skipIf_eq]

/-- STATUS is written by faults alone (R37). -/
@[simp] theorem effect_status (s : State) (i : Instr) : (effect s i).status = s.status := by
  cases i <;> simp only [effect]
  case waitKey => split <;> rfl
  all_goals simp [State.setRegFlag, State.skipIf_eq]

/-- The outputs are written by the end of the step alone. -/
@[simp] theorem effect_out (s : State) (i : Instr) : (effect s i).out = s.out := by
  cases i <;> simp only [effect]
  case waitKey => split <;> rfl
  all_goals simp [State.setRegFlag, State.skipIf_eq]

end Sys2Proof.Machine
end

