-- ==== Sys2Proof/Laws/PerInstr.lean ====
section
/-! SUPPORT. Per instruction: its encoding fits the row of the opcode map that it names (spec/30_encoding.md R76). -/

namespace Sys2Proof.Laws.EncodingFits

/-- The word of `i` matches the pattern of `i`, and that pattern is a row of R76. -/
def Statement (i : Instr) : Prop := fits i.pattern (encode i) = true ∧ i.pattern ∈ opcodeMap

theorem fits_fmtA (op : BitVec 4) (nnn : BitVec 12) (m : Word) (h : fmtA op 0 = m) :
    fits (m, 0xF000) (fmtA op nnn) = true := by
  simp only [fits, and_F000, (fields_fmtA op nnn).1, h, beq_self_eq_true]

theorem fits_fmtXB (op : BitVec 4) (x : Reg) (nn : Byte) (m : Word) (h : fmtA op 0 = m) :
    fits (m, 0xF000) (fmtXB op x nn) = true := by
  simp only [fits, and_F000, (fields_fmtXB op x nn).1, h, beq_self_eq_true]

theorem fits_fmtXY (op : BitVec 4) (x y : Reg) (n : Fin 16) (m : Word) (h : fmtXY op 0 0 n = m) :
    fits (m, 0xF00F) (fmtXY op x y n) = true := by
  have hf := fields_fmtXY op x y n
  simp only [fits, and_F00F, hf.1, hf.2.2.2, h, beq_self_eq_true]

theorem fits_fmtXYN (op : BitVec 4) (x y : Reg) (n : Fin 16) (m : Word) (h : fmtA op 0 = m) :
    fits (m, 0xF000) (fmtXY op x y n) = true := by
  simp only [fits, and_F000, (fields_fmtXY op x y n).1, h, beq_self_eq_true]

theorem fits_fmtXF (op : BitVec 4) (x : Reg) (kk : Byte) (m : Word) (h : fmtXB op 0 kk = m) :
    fits (m, 0xF0FF) (fmtXB op x kk) = true := by
  have hf := fields_fmtXB op x kk
  simp only [fits, and_F0FF, hf.1, hf.2.2, h, beq_self_eq_true]

theorem cls : Statement .cls := ⟨by decide, by decide⟩
theorem ret : Statement .ret := ⟨by decide, by decide⟩
theorem jump (nnn : BitVec 12) : Statement (.jump nnn) := ⟨fits_fmtA _ _ _ (by decide), by simp only [Instr.pattern]; decide⟩
theorem call (nnn : BitVec 12) : Statement (.call nnn) := ⟨fits_fmtA _ _ _ (by decide), by simp only [Instr.pattern]; decide⟩
theorem seImm (x : Reg) (nn : Byte) : Statement (.seImm x nn) := ⟨fits_fmtXB _ _ _ _ (by decide), by simp only [Instr.pattern]; decide⟩
theorem sneImm (x : Reg) (nn : Byte) : Statement (.sneImm x nn) := ⟨fits_fmtXB _ _ _ _ (by decide), by simp only [Instr.pattern]; decide⟩
theorem seReg (x y : Reg) : Statement (.seReg x y) := ⟨fits_fmtXY _ _ _ _ _ (by decide), by simp only [Instr.pattern]; decide⟩
theorem ldImm (x : Reg) (nn : Byte) : Statement (.ldImm x nn) := ⟨fits_fmtXB _ _ _ _ (by decide), by simp only [Instr.pattern]; decide⟩
theorem addImm (x : Reg) (nn : Byte) : Statement (.addImm x nn) := ⟨fits_fmtXB _ _ _ _ (by decide), by simp only [Instr.pattern]; decide⟩
theorem mov (x y : Reg) : Statement (.mov x y) := ⟨fits_fmtXY _ _ _ _ _ (by decide), by simp only [Instr.pattern]; decide⟩
theorem orReg (x y : Reg) : Statement (.orReg x y) := ⟨fits_fmtXY _ _ _ _ _ (by decide), by simp only [Instr.pattern]; decide⟩
theorem andReg (x y : Reg) : Statement (.andReg x y) := ⟨fits_fmtXY _ _ _ _ _ (by decide), by simp only [Instr.pattern]; decide⟩
theorem xorReg (x y : Reg) : Statement (.xorReg x y) := ⟨fits_fmtXY _ _ _ _ _ (by decide), by simp only [Instr.pattern]; decide⟩
theorem addReg (x y : Reg) : Statement (.addReg x y) := ⟨fits_fmtXY _ _ _ _ _ (by decide), by simp only [Instr.pattern]; decide⟩
theorem subReg (x y : Reg) : Statement (.subReg x y) := ⟨fits_fmtXY _ _ _ _ _ (by decide), by simp only [Instr.pattern]; decide⟩
theorem shr (x y : Reg) : Statement (.shr x y) := ⟨fits_fmtXY _ _ _ _ _ (by decide), by simp only [Instr.pattern]; decide⟩
theorem subnReg (x y : Reg) : Statement (.subnReg x y) := ⟨fits_fmtXY _ _ _ _ _ (by decide), by simp only [Instr.pattern]; decide⟩
theorem shl (x y : Reg) : Statement (.shl x y) := ⟨fits_fmtXY _ _ _ _ _ (by decide), by simp only [Instr.pattern]; decide⟩
theorem sneReg (x y : Reg) : Statement (.sneReg x y) := ⟨fits_fmtXY _ _ _ _ _ (by decide), by simp only [Instr.pattern]; decide⟩
theorem ldI (nnn : BitVec 12) : Statement (.ldI nnn) := ⟨fits_fmtA _ _ _ (by decide), by simp only [Instr.pattern]; decide⟩
theorem jumpV0 (nnn : BitVec 12) : Statement (.jumpV0 nnn) := ⟨fits_fmtA _ _ _ (by decide), by simp only [Instr.pattern]; decide⟩
theorem rnd (x : Reg) (nn : Byte) : Statement (.rnd x nn) := ⟨fits_fmtXB _ _ _ _ (by decide), by simp only [Instr.pattern]; decide⟩
theorem draw (x y : Reg) (n : Fin 16) : Statement (.draw x y n) := ⟨fits_fmtXYN _ _ _ _ _ (by decide), by simp only [Instr.pattern]; decide⟩
theorem skp (x : Reg) : Statement (.skp x) := ⟨fits_fmtXF _ _ _ _ (by decide), by simp only [Instr.pattern]; decide⟩
theorem sknp (x : Reg) : Statement (.sknp x) := ⟨fits_fmtXF _ _ _ _ (by decide), by simp only [Instr.pattern]; decide⟩
theorem getDt (x : Reg) : Statement (.getDt x) := ⟨fits_fmtXF _ _ _ _ (by decide), by simp only [Instr.pattern]; decide⟩
theorem waitKey (x : Reg) : Statement (.waitKey x) := ⟨fits_fmtXF _ _ _ _ (by decide), by simp only [Instr.pattern]; decide⟩
theorem setDt (x : Reg) : Statement (.setDt x) := ⟨fits_fmtXF _ _ _ _ (by decide), by simp only [Instr.pattern]; decide⟩
theorem setSt (x : Reg) : Statement (.setSt x) := ⟨fits_fmtXF _ _ _ _ (by decide), by simp only [Instr.pattern]; decide⟩
theorem addI (x : Reg) : Statement (.addI x) := ⟨fits_fmtXF _ _ _ _ (by decide), by simp only [Instr.pattern]; decide⟩
theorem glyph (x : Reg) : Statement (.glyph x) := ⟨fits_fmtXF _ _ _ _ (by decide), by simp only [Instr.pattern]; decide⟩
theorem bcd (x : Reg) : Statement (.bcd x) := ⟨fits_fmtXF _ _ _ _ (by decide), by simp only [Instr.pattern]; decide⟩
theorem store (x : Reg) : Statement (.store x) := ⟨fits_fmtXF _ _ _ _ (by decide), by simp only [Instr.pattern]; decide⟩
theorem load (x : Reg) : Statement (.load x) := ⟨fits_fmtXF _ _ _ _ (by decide), by simp only [Instr.pattern]; decide⟩

end Sys2Proof.Laws.EncodingFits
end

