-- ==== Sys2Proof/Tests/Slice0.lean ====
section
/-! SUPPORT. Tests: expected values are those of spec/95_test_vectors.md (its ids in the names or comments) and of the rules'
own examples; then one witness for the hypotheses of each statement. -/

namespace Sys2Proof.Tests
open Sys2Proof Sys2Proof.Machine

/-! ## Helpers -/

/-- The state an outcome answers, if it is a next state. -/
def after : Host.Outcome State Fault Refusal → State
  | .next t => t
  | .fault _ => State.reset
  | .refused _ => State.reset

/-- The core with word `w` where it fetches next. -/
def ready (s : State) (w : Nat) : State := s.withFetchWord 16 w

/-- The state after one step of word `w` from `s`. -/
def run (s : State) (w : Nat) : State := after (step (ready s w))

/-- The state after initialize in External mode. -/
def external : State := State.initial { defaultConfig with tickSource := .external }

/-- Reset with two registers set. -/
def regs (x : Reg) (a : Byte) (y : Reg) (b : Byte) : State := (State.reset.setReg x a).setReg y b

/-- Reset with I and memory bytes from I on. -/
def at300 (bs : List Byte) : State := (State.reset.setBytes 0x300 bs).setI 0x300

/-- Reset with key `k` pressed. -/
def pressed (k : Fin 16) : State := { State.reset with keys := (Vector.replicate 16 false).set k.val true }

/-- Reset with the stack pointer and one entry set. -/
def stacked (n : Fin 17) (j : Fin 16) (a : Word) : State :=
  { State.reset with sp := n, stack := (Vector.replicate 16 0).set j.val a }

/-- The record of a fault at 0x200. -/
def recordAt200 (f : Fault) (w : Word) : Status := .faulted { fault := f, pc := 0x200, word := some w }

/-- A core that has faulted on 00EE at 0x200. -/
def faultedCore : State := run State.reset 0x00EE

/-! ## Well-formedness refuses ill-formed terms -/

theorem test_image_too_long_refused : imageWellFormed (List.replicate 3585 0) = false := by
  rw [imageWellFormed, List.length_replicate]; decide
theorem test_image_longest_accepted : imageWellFormed (List.replicate 3584 0) = true := by
  rw [imageWellFormed, List.length_replicate]; decide
theorem test_nibble_16_refused : nibbleWellFormed 16 = false ∧ nibbleWellFormed 15 = true := by decide
theorem test_byte_256_refused : byteWellFormed 256 = false ∧ byteWellFormed 255 = true := by decide
theorem test_addr_4096_refused : addrWellFormed 4096 = false ∧ addrWellFormed 4095 = true := by decide

/-! ## Decoding: every row of R76, from words written out from its pattern -/

theorem test_decode_flow : decodeWord 0x00E0 = some .cls ∧ decodeWord 0x00EE = some .ret ∧
    decodeWord 0x1234 = some (.jump 0x234) ∧ decodeWord 0x2ABC = some (.call 0xABC) ∧
    decodeWord 0x3310 = some (.seImm 3 0x10) ∧ decodeWord 0x4311 = some (.sneImm 3 0x11) ∧
    decodeWord 0x5120 = some (.seReg 1 2) ∧ decodeWord 0x9120 = some (.sneReg 1 2) ∧
    decodeWord 0xBFFF = some (.jumpV0 0xFFF) := by decide
theorem test_decode_arithmetic : decodeWord 0x6A7B = some (.ldImm 10 0x7B) ∧ decodeWord 0x71FF = some (.addImm 1 0xFF) ∧
    decodeWord 0x8120 = some (.mov 1 2) ∧ decodeWord 0x8121 = some (.orReg 1 2) ∧ decodeWord 0x8122 = some (.andReg 1 2) ∧
    decodeWord 0x8123 = some (.xorReg 1 2) ∧ decodeWord 0x8124 = some (.addReg 1 2) ∧
    decodeWord 0x8125 = some (.subReg 1 2) ∧ decodeWord 0x8126 = some (.shr 1 2) ∧ decodeWord 0x8127 = some (.subnReg 1 2) ∧
    decodeWord 0x81FE = some (.shl 1 15) ∧ decodeWord 0xC3F0 = some (.rnd 3 0xF0) := by decide
theorem test_decode_display_memory : decodeWord 0xD01F = some (.draw 0 1 15) ∧ decodeWord 0xA300 = some (.ldI 0x300) ∧
    decodeWord 0xF21E = some (.addI 2) ∧ decodeWord 0xF029 = some (.glyph 0) ∧ decodeWord 0xFA33 = some (.bcd 10) ∧
    decodeWord 0xFF55 = some (.store 15) ∧ decodeWord 0xF265 = some (.load 2) := by decide
theorem test_decode_keys_timers : decodeWord 0xE19E = some (.skp 1) ∧ decodeWord 0xE2A1 = some (.sknp 2) ∧
    decodeWord 0xF307 = some (.getDt 3) ∧ decodeWord 0xF10A = some (.waitKey 1) ∧ decodeWord 0xF015 = some (.setDt 0) ∧
    decodeWord 0xF018 = some (.setSt 0) := by decide
/-- E1 to E8. -/
theorem test_decode_unknown : decodeWord 0x5121 = none ∧ decodeWord 0x0123 = none ∧ decodeWord 0x01E0 = none ∧
    decodeWord 0x8129 = none ∧ decodeWord 0xE0FF = none ∧ decodeWord 0xF0FF = none ∧ decodeWord 0x9121 = none ∧
    decodeWord 0x0000 = none := by decide
theorem test_decode_bytes_high_first : decodeBytes [0x12, 0x34, 0x99] = .ok (.jump 0x234, [0x99]) := by decide

/-! ## One step of each instruction -/

/-- D1 -/
theorem test_cls : (run { State.reset with fb := (Vector.replicate 32 0).set 31 (BitVec.twoPow 64 63), redraw := false }
    0x00E0).fb = Framebuffer.blank ∧ (run { State.reset with redraw := false } 0x00E0).redraw = true := by decide
/-- C3 -/
theorem test_ret : (run (stacked 1 0 0x206) 0x00EE).pc = 0x206 ∧ (run (stacked 1 0 0x206) 0x00EE).sp = 0 ∧
    (run (stacked 1 0 0x206) 0x00EE).stack[0] = 0x206 := by decide
/-- C4 -/
theorem test_ret_underflow : faultedCore.status = recordAt200 .stackUnderflow 0x00EE ∧ faultedCore.pc = 0x200 := by decide
/-- C1 -/
theorem test_jump : (run State.reset 0x1234).pc = 0x234 := by decide
/-- C5 -/
theorem test_call : (run { State.reset with pc := 0xFFE } 0x2ABC).pc = 0xABC ∧
    (run { State.reset with pc := 0xFFE } 0x2ABC).stack[0] = 0x1000 ∧
    (run { State.reset with pc := 0xFFE } 0x2ABC).sp = 1 := by decide
/-- C16 -/
theorem test_call_overflow : (run (stacked 16 0 0x202) 0x2200).status = recordAt200 .stackOverflow 0x2200 ∧
    (run (stacked 16 0 0x202) 0x2200).sp = 16 := by decide
/-- C6, C7 -/
theorem test_seImm : (run (State.reset.setReg 3 0x10) 0x3310).pc = 0x204 ∧
    (run (State.reset.setReg 3 0x10) 0x3311).pc = 0x202 := by decide
/-- C8 -/
theorem test_sneImm : (run (State.reset.setReg 3 0x10) 0x4311).pc = 0x204 ∧
    (run (State.reset.setReg 3 0x10) 0x4310).pc = 0x202 := by decide
/-- C9; V1 and V2 that differ do not skip (R126) -/
theorem test_seReg : (run (regs 1 7 2 7) 0x5120).pc = 0x204 ∧ (run (regs 1 7 2 8) 0x5120).pc = 0x202 := by decide
/-- C11 -/
theorem test_sneReg : (run (regs 1 7 2 8) 0x9120).pc = 0x204 ∧ (run (regs 1 7 2 8) 0x9110).pc = 0x202 := by decide
/-- C14 -/
theorem test_jumpV0 : (run (State.reset.setReg 0 0xFF) 0xBFFF).pc = 0x10FE ∧
    (after (step (run (State.reset.setReg 0 0xFF) 0xBFFF))).status =
      .faulted { fault := .indexOutOfRange 0x10FE, pc := 0x10FE, word := none } := by decide
/-- A1 -/
theorem test_ldImm : (run State.reset 0x6A7B).reg 10 = 0x7B := by decide
/-- A2, A3 -/
theorem test_addImm : (run (regs 1 0xFF 15 9) 0x7101).reg 1 = 0 ∧ (run (regs 1 0xFF 15 9) 0x7101).reg 15 = 9 ∧
    (run (State.reset.setReg 15 0xFF) 0x7F01).reg 15 = 0 := by decide
/-- A23 -/
theorem test_mov : (run (State.reset.setReg 2 0x33) 0x8120).reg 1 = 0x33 := by decide
/-- A4 -/
theorem test_orReg : (run ((regs 1 0x0C 2 0x0A).setReg 15 1) 0x8121).reg 1 = 0x0E ∧
    (run ((regs 1 0x0C 2 0x0A).setReg 15 1) 0x8121).reg 15 = 1 := by decide
/-- A5 -/
theorem test_andReg_xorReg : (run (regs 1 0xF0 2 0x3C) 0x8122).reg 1 = 0x30 ∧
    (run (regs 1 0xF0 2 0x3C) 0x8123).reg 1 = 0xCC := by decide
/-- A7, A9 -/
theorem test_addReg : (run (regs 1 0xFF 2 1) 0x8124).reg 1 = 0 ∧ (run (regs 1 0xFF 2 1) 0x8124).reg 15 = 1 ∧
    (run (regs 15 0xFF 1 1) 0x8F14).reg 15 = 1 := by decide
/-- A10 -/
theorem test_addReg_flag_as_source : (run (regs 1 1 15 0xFE) 0x81F4).reg 1 = 0xFF ∧
    (run (regs 1 1 15 0xFE) 0x81F4).reg 15 = 0 := by decide
/-- W2, A11 -/
theorem test_subReg : (run (regs 1 5 2 7) 0x8125).reg 1 = 0xFE ∧ (run (regs 1 5 2 7) 0x8125).reg 15 = 0 ∧
    (run (regs 1 7 2 7) 0x8125).reg 15 = 1 ∧ (run (regs 15 3 1 5) 0x8F15).reg 15 = 0 := by decide
/-- A15, A12 -/
theorem test_shr : (run (regs 1 1 2 0xFF) 0x8126).reg 1 = 0 ∧ (run (regs 1 1 2 0xFF) 0x8126).reg 15 = 1 ∧
    (run (regs 1 1 2 0xFF) 0x8126).reg 2 = 0xFF ∧ (run (State.reset.setReg 15 3) 0x8F06).reg 15 = 1 := by decide
/-- A16, A17 -/
theorem test_subnReg : (run (regs 1 5 2 7) 0x8127).reg 1 = 2 ∧ (run (regs 1 5 2 7) 0x8127).reg 15 = 1 ∧
    (run (regs 1 7 2 5) 0x8127).reg 1 = 0xFE ∧ (run (regs 1 7 2 5) 0x8127).reg 15 = 0 := by decide
/-- A19, A20 -/
theorem test_shl : (run (State.reset.setReg 1 0x81) 0x810E).reg 1 = 2 ∧ (run (State.reset.setReg 1 0x81) 0x810E).reg 15 = 1 ∧
    (run (State.reset.setReg 1 0x40) 0x810E).reg 1 = 0x80 ∧ (run (State.reset.setReg 1 0x40) 0x810E).reg 15 = 0 := by decide
/-- A22 -/
theorem test_rnd : (run State.reset 0xC300).reg 3 = 0 := by
  show Config.rndByte 0 &&& 0 = 0
  exact BitVec.and_zero
/-- D3 and the second half of D4: the same draw again turns both pixels off, with a collision -/
theorem test_draw : (run (at300 [0xC0]) 0xD011).pixel 0 0 = true ∧ (run (at300 [0xC0]) 0xD011).pixel 1 0 = true ∧
    (run (at300 [0xC0]) 0xD011).pixel 2 0 = false ∧ (run (at300 [0xC0]) 0xD011).reg 15 = 0 ∧
    (run (run (at300 [0xC0]) 0xD011) 0xD011).fb = Framebuffer.blank ∧
    (run (run (at300 [0xC0]) 0xD011) 0xD011).reg 15 = 1 := by decide
/-- D11, D9: clipped at the right edge; a sprite byte at 0x1000 faults -/
theorem test_draw_edges : (run ((at300 [0xFF]).setReg 0 60) 0xD011).pixel 63 0 = true ∧
    (run ((at300 [0xFF]).setReg 0 60) 0xD011).pixel 0 0 = false ∧
    (run (State.reset.setI 0xFFE) 0xD013).status = recordAt200 (.indexOutOfRange 0x1000) 0xD013 := by decide
/-- M1 -/
theorem test_ldI : (run State.reset 0xA300).i = 0x300 := by decide
/-- M2, M3 -/
theorem test_addI : (run ((State.reset.setI 0xFFF).setReg 2 2) 0xF21E).i = 0x1001 ∧
    (run ((State.reset.setI 0xFFFF).setReg 0 1) 0xF01E).i = 0 := by decide
/-- M4, M5 -/
theorem test_glyph : (run (State.reset.setReg 0 0x0A) 0xF029).i = 0x32 ∧
    (run (State.reset.setReg 0 0xFF) 0xF029).i = 0x4FB := by decide
/-- W6, M6 -/
theorem test_bcd : (run ((State.reset.setI 0x300).setReg 0 255) 0xF033).mem.map Prod.snd = [0xF0, 0x33, 2, 5, 5] ∧
    (run ((State.reset.setI 0xFFD).setReg 0 9) 0xF033).byteAt 0xFFF = 9 := by decide
/-- M7, M8 -/
theorem test_bcd_out_of_range :
    (run (State.reset.setI 0xFFE) 0xF033).status = recordAt200 (.indexOutOfRange 0x1000) 0xF033 ∧
    (run (State.reset.setI 0x1005) 0xF033).status = recordAt200 (.indexOutOfRange 0x1005) 0xF033 := by decide
/-- M14, M11 -/
theorem test_store : (run (State.reset.setReg 0 0xAA) 0xF055).byteAt 0 = 0xAA ∧
    (run (State.reset.setI 0xFF1) 0xFF55).status = recordAt200 (.indexOutOfRange 0x1000) 0xFF55 := by decide
/-- M13: the stored jump is fetched by the very next step -/
theorem test_store_is_fetched : (after (step (run { regs 0 0x12 1 2 with i := 0x202 } 0xF155))).pc = 0x202 ∧
    (after (step (run { regs 0 0x12 1 2 with i := 0x202 } 0xF155))).reg 0 = 0x12 := by decide
/-- M12 -/
theorem test_load : (run ((at300 [0x44]).setReg 1 9) 0xF065).reg 0 = 0x44 ∧
    (run ((at300 [0x44]).setReg 1 9) 0xF065).reg 1 = 9 ∧ (run ((at300 [0x44]).setReg 1 9) 0xF065).i = 0x300 := by decide
/-- K1, K4 -/
theorem test_skp : (run ((pressed 7).setReg 1 7) 0xE19E).pc = 0x204 ∧
    (run (State.reset.setReg 2 16) 0xE29E).status = recordAt200 (.keyIndexOutOfRange 16) 0xE29E := by decide
/-- K2, K3 -/
theorem test_sknp : (run (State.reset.setReg 1 7) 0xE1A1).pc = 0x204 ∧
    (run ((pressed 15).setReg 2 15) 0xE2A1).pc = 0x202 := by decide
/-- T1 -/
theorem test_getDt : (run (State.reset.setDelay 1) 0xF307).reg 3 = 1 ∧ (run (State.reset.setDelay 1) 0xF307).dt = 0 := by
  decide
/-- K6, K7 -/
theorem test_waitKey : (run (pressed 12) 0xFF0A).reg 15 = 12 ∧ (run State.reset 0xF10A).wait = some 1 ∧
    (run State.reset 0xF10A).pc = 0x200 ∧ (run State.reset 0xF10A).out.result = some .waiting := by decide
/-- K7, second step -/
theorem test_awaited_key :
    (after (step ((run (State.reset.setDelay 3) 0xF10A).setKeys (pressed 5).keys))).reg 1 = 5 ∧
    (after (step ((run (State.reset.setDelay 3) 0xF10A).setKeys (pressed 5).keys))).pc = 0x202 ∧
    (after (step ((run (State.reset.setDelay 3) 0xF10A).setKeys (pressed 5).keys))).dt = 2 := by decide
/-- T2 -/
theorem test_setDt : (run (State.reset.setReg 0 5) 0xF015).dt = 4 ∧ (run (external.setReg 0 5) 0xF015).dt = 5 := by decide
/-- T5, T6 -/
theorem test_setSt : (run ((State.reset.setReg 0 1).setSound 5) 0xF018).out.beep = true ∧
    (run ((State.reset.setReg 0 1).setSound 5) 0xF018).st = 0 ∧
    (run (State.reset.setSound 1) 0xF018).out.beep = false := by decide
/-- E1 -/
theorem test_unknown_word : (run (State.reset.setDelay 2) 0x5121).out =
      { result := some .completed, beep := false, warning := some { pc := 0x200, word := 0x5121 } } ∧
    (run (State.reset.setDelay 2) 0x5121).pc = 0x202 ∧ (run (State.reset.setDelay 2) 0x5121).dt = 1 := by decide
/-- C15, P6: the fetch at 0xFFF -/
theorem test_fetch_fault : (after (step { State.reset with pc := 0xFFF })).status =
    .faulted { fault := .indexOutOfRange 0x1000, pc := 0xFFF, word := none } := by decide
/-- T7, T9 -/
theorem test_host_tick : (external.setSound 1).timerTick.out.beep = true ∧ (external.setSound 2).timerTick.st = 1 ∧
    (external.setSound 2).timerTick.out.beep = false := by decide
/-- L3, and a two-byte image -/
theorem test_load_image : State.reset.loadImage [] = .ok State.reset ∧
    (State.reset.setBytes 0x200 [0x12, 0x00]).fetch = .ok 0x1200 := by decide
/-- L5 -/
theorem test_font : State.reset.byteAt 0 = 0xF0 ∧ State.reset.byteAt 1 = 0x90 ∧ State.reset.byteAt 0x4B = 0xF0 ∧
    State.reset.byteAt 0x4F = 0x80 ∧ State.reset.byteAt 0x50 = 0 := by decide

/-! ## Witnesses: for each statement with hypotheses, states and operands that meet them, each clause at its boundary -/

theorem runs {s : State} {i : Instr} (w : Word)
    (h : (s.status = .running ∧ s.wait = none) ∧ s.fetch = .ok w ∧ decodeWord w = some i) : s.Runs i := ⟨h.1, w, h.2⟩

/-- A core whose FX0A at 0x200 found no key. -/
def waiting : State := run State.reset 0xF10A

theorem exec_answers_next (i : Instr) (s : State) : ∃ t, exec i s = .next t := ⟨_, exec_eq i s⟩

theorem wf_at300 (bs : List Byte) (h : bs.length ≤ 3328) :
    Memory.wf (at300 bs).cfg.fontRom (at300 bs).mem := by
  rw [show (at300 bs).cfg = State.reset.cfg from State.setBytes_cfg _ _ _]
  exact State.wf_setBytes State.reset 0x300 bs (by omega) (Memory.wf_nil _)

theorem witness_EncodeDecodeRoundTrip : decodeWord 0x81E6 = some (.shr 1 14) ∧ encode (.shr 1 14) = 0x81E6 := by decide
theorem witness_DecodingIsTheOpcodeMap : decodeWord 0xFF65 = some (.load 15) ∧ decodeWord 0xFF66 = none := by
  decide
theorem witness_AtMostOneRowMatches : ((0xF065, 0xF0FF) : Pattern) ∈ opcodeMap ∧ (0xFF65 : Word) &&& 0xF0FF = 0xF065 := by
  decide
theorem witness_StepRunsDecodedInstruction : ∃ w i, (ready State.reset 0x8124).Ready ∧
    (ready State.reset 0x8124).fetch = .ok w ∧ decodeWord w = some i :=
  ⟨0x8124, .addReg 1 2, ⟨rfl, rfl⟩, by decide, by decide⟩
/-- A completed instruction in either mode, one that waits, one that faults. -/
theorem witness_CompletedStepTicksTimersOnce :
    (ready State.reset 0x00E0).Runs .cls ∧ (after (exec .cls (ready State.reset 0x00E0))).Ready ∧
    (ready external 0x00E0).Runs .cls ∧ (ready external 0x00E0).cfg.tickSource = .external ∧
    (ready State.reset 0xF10A).Runs (.waitKey 1) ∧
    (after (exec (.waitKey 1) (ready State.reset 0xF10A))).wait = some 1 ∧
    (ready State.reset 0x00EE).Runs .ret ∧
    (after (exec .ret (ready State.reset 0x00EE))).status = recordAt200 .stackUnderflow 0x00EE :=
  ⟨runs 0x00E0 (by decide), ⟨rfl, rfl⟩, runs 0x00E0 (by decide), rfl, runs 0xF10A (by decide), by decide,
    runs 0x00EE (by decide), by decide⟩
theorem witness_StepReturnsOneStatus : (∃ t, step (ready State.reset 0x00E0) = .next t) ∧
    (run State.reset 0x00E0).out.result = some .completed ∧ waiting.out.result = some .waiting ∧
    faultedCore.out.result = some (.faulted 3) := ⟨⟨_, rfl⟩, by decide⟩
theorem witness_FetchReadsWordOrFaults : ({ State.reset with pc := 0xFFE } : State).pc.toNat ≤ 0xFFE ∧
    ({ State.reset with pc := 0xFFF } : State).pc.toNat > 0xFFE ∧ ({ State.reset with pc := 0xFFF } : State).Ready :=
  ⟨by decide, by decide, rfl, rfl⟩
theorem witness_UnknownWordIsNoOpWithWarning : State.reset.Ready ∧ State.reset.fetch = .ok 0 ∧ decodeWord 0 = none ∧
    State.reset.cfg.tickSource = .perCycle ∧ external.Ready ∧ external.fetch = .ok 0 ∧
    external.cfg.tickSource = .external := ⟨⟨rfl, rfl⟩, by decide, by decide, rfl, ⟨rfl, rfl⟩, by decide, rfl⟩
theorem witness_FaultedCoreStaysFaulted : faultedCore.status = recordAt200 .stackUnderflow 0x00EE := by decide
/-- Keys 0 and 15 are the boundaries. -/
theorem witness_AwaitingKeyStepPolls : waiting.status = .running ∧ waiting.wait = some 1 ∧ (∀ k, waiting.key k = false) ∧
    (waiting.setKeys (pressed 0).keys).key 0 = true ∧ (waiting.setKeys (pressed 15).keys).key 15 = true ∧
    (∀ j < 15, (waiting.setKeys (pressed 15).keys).key j = false) := by decide
theorem witness_TimerTickCountsDown : ((State.reset.setDelay 1).setSound 255).dt.toNat > 0 ∧
    ((State.reset.setDelay 1).setSound 255).st.toNat > 0 ∧ State.reset.dt.toNat = 0 ∧ State.reset.st.toNat = 0 := by decide
/-- ST of 1 and 2, an FX18 with VX = 1, an unknown word, a satisfied key wait, and a wait that goes on. -/
theorem witness_BeepOnlyWhenTickReachesZero :
    (∃ t, step (ready (State.reset.setSound 1) 0x00E0) = .next t) ∧
    (run (State.reset.setSound 1) 0x00E0).out.beep = true ∧ (run (State.reset.setSound 2) 0x00E0).out.beep = false ∧
    (ready (State.reset.setReg 0 1) 0xF018).Runs (.setSt 0) ∧ (run (State.reset.setReg 0 1) 0xF018).out.beep = true ∧
    (run (State.reset.setSound 1) 0x5121).out.beep = true ∧
    (after (step ((waiting.setSound 1).setKeys (pressed 5).keys))).out.beep = true ∧
    (after (step (waiting.setSound 1))).out.beep = false :=
  ⟨⟨_, rfl⟩, by decide, by decide, runs 0xF018 (by decide), by decide, by decide, by decide, by decide⟩

theorem inv_reset : State.reset.Inv :=
  ⟨Memory.wf_nil _, by decide, fun _ h => absurd h (Nat.not_lt_zero _), fun h => absurd h (by decide),
    fun _ h => nomatch h⟩
theorem witness_EveryStepKeepsInvariant : State.reset.Inv ∧ ∃ t, step State.reset = .next t := ⟨inv_reset, _, rfl⟩
theorem witness_HostActionsKeepInvariant : State.reset.Inv ∧ (∃ t, State.reset.act (.loadImage [0x12, 0x00]) = .ok t) ∧
    (∃ t, State.reset.act .timerTick = .ok t) := ⟨inv_reset, ⟨_, rfl⟩, _, rfl⟩
theorem witness_CanonicalMemoriesReadAlikeAreEqual : ∃ m m' : Memory, m ≠ [] ∧ Memory.wf defaultFont m ∧
    Memory.wf defaultFont m' ∧ ∀ a, Memory.read defaultFont m a = Memory.read defaultFont m' a :=
  ⟨[(0x300, 5)], [(0x300, 5)], by decide, by decide, by decide, fun _ => rfl⟩
/-- A fault of an instruction, with its word, and a fault of the fetch, without one. -/
theorem witness_FaultsArePrecise :
    (ready State.reset 0x00EE).status = .running ∧ (ready State.reset 0x00EE).fetch = .ok 0x00EE ∧
    (∃ t r, step (ready State.reset 0x00EE) = .next t ∧ t.status = .faulted r) ∧
    ({ State.reset with pc := 0xFFF } : State).fetch = .error (.indexOutOfRange 0x1000) ∧
    (∃ t r, step { State.reset with pc := 0xFFF } = .next t ∧ t.status = .faulted r) :=
  ⟨rfl, by decide, ⟨_, _, rfl, rfl⟩, by decide, _, _, rfl, rfl⟩
theorem witness_InstructionsFaultExactlyOnTheirCondition :
    (stacked 16 0 0).raisedBy (.call 0x300) = some .stackOverflow ∧ (stacked 15 0 0).raisedBy (.call 0x300) = none ∧
    State.reset.raisedBy .ret = some .stackUnderflow ∧ (stacked 1 0 0).raisedBy .ret = none ∧
    (State.reset.setI 0xFFE).raisedBy (.draw 0 1 3) = some (.indexOutOfRange 0x1000) ∧
    (State.reset.setI 0xFFE).raisedBy (.draw 0 1 2) = none ∧ (State.reset.setI 0xFFFF).raisedBy (.draw 0 1 0) = none ∧
    (State.reset.setI 0xFFE).raisedBy (.bcd 0) = some (.indexOutOfRange 0x1000) ∧
    (State.reset.setI 0xFFD).raisedBy (.bcd 0) = none ∧
    (State.reset.setI 0x1000).raisedBy (.store 0) = some (.indexOutOfRange 0x1000) ∧
    (State.reset.setI 0xFF0).raisedBy (.load 15) = none ∧
    (State.reset.setReg 1 16).raisedBy (.skp 1) = some (.keyIndexOutOfRange 16) ∧
    (State.reset.setReg 1 15).raisedBy (.sknp 1) = none := by decide

/-- N = 0 at the highest I, a sprite that ends at 0xFFF, and a sprite bit on a pixel that is on, and on one that is off. -/
theorem witness_DrawXorsClippedSprite :
    ((0 : Fin 16).val = 0 ∨ (State.reset.setI 0xFFFF).i.toNat + (0 : Fin 16).val ≤ 0x1000) ∧
    ((15 : Fin 16).val = 0 ∨ (State.reset.setI 0xFF1).i.toNat + (15 : Fin 16).val ≤ 0x1000) ∧
    (run (at300 [0xC0]) 0xD011).SpriteMeets 0 1 1 true ∧ ¬ (State.reset.setI 0xFF1).SpriteMeets 0 1 0 true :=
  ⟨by decide, by decide, ⟨0, 0, by decide, by decide, by unfold State.SpriteBit; decide, by decide⟩,
    fun ⟨_, _, _, _, h, _⟩ => by have := h.2.2.1; have := h.2.2.2.1; omega⟩
theorem witness_DrawingTwiceRestoresScreen : ∃ t u, (at300 [0xC0]).i.toNat + (1 : Fin 16).val ≤ 0x1000 ∧
    exec (.draw 0 1 1) (at300 [0xC0]) = .next t ∧ t.reg 0 = (at300 [0xC0]).reg 0 ∧ t.reg 1 = (at300 [0xC0]).reg 1 ∧
    exec (.draw 0 1 1) t = .next u := ⟨_, _, by decide, rfl, by decide, by decide, rfl⟩
/-- A step that draws nothing, 00E0, a DXYN that draws, one that faults, and a host action. -/
theorem witness_OnlyClearAndDrawChangeFramebuffer :
    ((∃ t, step State.reset = .next t) ∧ (∀ i, ¬ State.reset.Runs i)) ∧ (ready State.reset 0x00E0).Runs .cls ∧
    ((ready State.reset 0xD011).Runs (.draw 0 1 1) ∧ (run State.reset 0xD011).status = .running) ∧
    ((ready (State.reset.setI 0x1000) 0xD011).Runs (.draw 0 1 1) ∧
      (run (State.reset.setI 0x1000) 0xD011).status ≠ .running) ∧
    (HostAction.clearRedraw ≠ .reinit ∧ ∃ t, State.reset.act .clearRedraw = .ok t) :=
  ⟨⟨⟨_, rfl⟩, fun i ⟨_, w, hf, hd⟩ => by
      rw [show State.reset.fetch = .ok 0 from rfl] at hf
      cases hf
      exact absurd hd (by rw [show decodeWord 0 = none from rfl]; exact fun h => nomatch h)⟩,
    runs 0x00E0 (by decide), ⟨runs 0xD011 (by decide), by decide⟩, ⟨runs 0xD011 (by decide), by decide⟩, by decide, _, rfl⟩
theorem witness_RedrawIsSetByDrawingAndClearedByHost :
    ((ready State.reset 0x1200).Runs (.jump 0x200) ∧ (ready State.reset 0x00E0).Runs .cls) ∧
    ((ready State.reset 0xD010).Runs (.draw 0 1 0) ∧ (run State.reset 0xD010).status = .running) ∧
    ((ready (State.reset.setI 0xFFE) 0xD013).Runs (.draw 0 1 3) ∧
      (run (State.reset.setI 0xFFE) 0xD013).status ≠ .running) :=
  ⟨⟨runs 0x1200 (by decide), runs 0x00E0 (by decide)⟩, ⟨runs 0xD010 (by decide), by decide⟩,
    runs 0xD013 (by decide), by decide⟩

theorem witness_ReturnPopsProgramCounter : (stacked 1 0 0x206).sp.val = (0 : Fin 16).val + 1 ∧
    (stacked 16 15 0x1000).sp.val = (15 : Fin 16).val + 1 ∧ (stacked 16 15 0x1000).stack[15].toNat > 0xFFE ∧
    State.reset.sp.val = 0 := by decide
theorem witness_JumpSetsProgramCounter : (0xFFF : BitVec 12).toNat = 0xFFF ∧
    (ready State.reset 0x1200).Runs (.jump 0x200) ∧ (ready State.reset 0x1200).pc.toNat = (0x200 : BitVec 12).toNat ∧
    (ready State.reset 0x1200).cfg.tickSource = .perCycle := ⟨by decide, runs 0x1200 (by decide), by decide, rfl⟩
theorem witness_CallPushesReturnAddress : State.reset.sp.val = (0 : Fin 16).val ∧
    (stacked 15 0 0).sp.val = (15 : Fin 16).val ∧ (stacked 16 0 0).sp.val = 16 := by decide
theorem witness_SkipOnImmediate : (State.reset.setReg 15 0xFF).reg 15 = 0xFF ∧ (State.reset.setReg 15 0xFF).reg 15 ≠ 0 := by
  decide
theorem witness_SkipOnRegisters : (regs 1 7 2 7).reg 1 = (regs 1 7 2 7).reg 2 ∧ (regs 1 7 2 8).reg 1 ≠ (regs 1 7 2 8).reg 2 ∧
    ((0x512F : Word) &&& 0xF000 = 0x5000 ∧ (0x512F : Word) &&& 0xF ≠ 0) ∧
    ((0x9121 : Word) &&& 0xF000 = 0x9000 ∧ (0x9121 : Word) &&& 0xF ≠ 0) := by decide
theorem witness_StackChangesOnlyByCallAndReturn :
    ((∃ t, step (ready State.reset 0x1200) = .next t) ∧ (ready State.reset 0x1200).Runs (.jump 0x200)) ∧
    ((ready State.reset 0x2300).Runs (.call 0x300) ∧ (ready State.reset 0x2300).sp.val = (0 : Fin 16).val) ∧
    ((ready (stacked 15 0 0) 0x2300).Runs (.call 0x300) ∧ (ready (stacked 15 0 0) 0x2300).sp.val = (15 : Fin 16).val) ∧
    ((ready (stacked 16 0 0) 0x2300).Runs (.call 0x300) ∧ (ready (stacked 16 0 0) 0x2300).sp.val = 16) ∧
    ((ready (stacked 1 0 0x206) 0x00EE).Runs .ret ∧ (ready (stacked 1 0 0x206) 0x00EE).sp.val = (0 : Fin 16).val + 1) ∧
    ((ready (stacked 16 15 0x206) 0x00EE).Runs .ret ∧ (ready (stacked 16 15 0x206) 0x00EE).sp.val = (15 : Fin 16).val + 1) ∧
    ((ready State.reset 0x00EE).Runs .ret ∧ (ready State.reset 0x00EE).sp.val = 0) :=
  ⟨⟨⟨_, rfl⟩, runs 0x1200 (by decide)⟩, ⟨runs 0x2300 (by decide), by decide⟩, ⟨runs 0x2300 (by decide), by decide⟩,
    ⟨runs 0x2300 (by decide), by decide⟩, ⟨runs 0x00EE (by decide), by decide⟩, ⟨runs 0x00EE (by decide), by decide⟩,
    runs 0x00EE (by decide), by decide⟩
theorem witness_CallThenReturnLandsAfterCall : ∃ t u : State, (stacked 15 0 0).sp.val < 16 ∧
    exec (.call 0x300) (stacked 15 0 0) = .next t ∧ u.stack = t.stack ∧ u.sp = t.sp ∧ u.pc ≠ t.pc :=
  ⟨_, (after (exec (.call 0x300) (stacked 15 0 0))).advance, by decide, rfl, rfl, rfl, by decide⟩

/-- Sums of 256 and 255, a difference below zero and one of zero. -/
theorem witness_AddAndSubtractSetFlagLast : (1 : Reg) ≠ regF ∧
    ((regs 1 0xFF 2 1).reg 1).toNat + ((regs 1 0xFF 2 1).reg 2).toNat > 255 ∧
    ((regs 1 0xFE 2 1).reg 1).toNat + ((regs 1 0xFE 2 1).reg 2).toNat ≤ 255 ∧
    ((regs 1 6 2 7).reg 1).toNat < ((regs 1 6 2 7).reg 2).toNat ∧
    ((regs 1 7 2 7).reg 2).toNat ≤ ((regs 1 7 2 7).reg 1).toNat := by decide
theorem witness_ShiftsIgnoreYAndSetFlagLast : (14 : Reg) ≠ regF := by decide
theorem witness_ReverseSubtractSetsFlagLast : (1 : Reg) ≠ regF ∧
    ((regs 1 8 2 7).reg 2).toNat < ((regs 1 8 2 7).reg 1).toNat ∧
    ((regs 1 7 2 7).reg 1).toNat ≤ ((regs 1 7 2 7).reg 2).toNat := by decide
/-- 8XY1 into V1, and FX65 up to VE, leave VF alone. -/
theorem witness_OnlyFlagWritersChangeVfImplicitly :
    (∃ t, exec (.orReg 1 15) State.reset = .next t) ∧ ¬ FlagWriter (.orReg 1 15) ∧ ¬ NamesDest regF (.orReg 1 15) ∧
    (∃ t, exec (.load 14) State.reset = .next t) ∧ ¬ FlagWriter (.load 14) ∧ ¬ NamesDest regF (.load 14) :=
  ⟨⟨_, rfl⟩, id, by unfold NamesDest; decide, ⟨_, rfl⟩, id, by unfold NamesDest; decide⟩

theorem witness_BcdStoresThreeDigits : (State.reset.setI 0xFFD).i.toNat + 2 ≤ 0xFFF ∧
    Memory.wf (State.reset.setI 0xFFD).cfg.fontRom (State.reset.setI 0xFFD).mem := ⟨by decide, Memory.wf_nil _⟩
theorem witness_StoreWritesRegistersUpToX : (State.reset.setI 0xFF0).i.toNat + (15 : Reg).val ≤ 0xFFF ∧
    (State.reset.setI 0xFFF).i.toNat + (0 : Reg).val ≤ 0xFFF ∧ (15 : Reg) ≤ 15 ∧
    Memory.wf (State.reset.setI 0xFF0).cfg.fontRom (State.reset.setI 0xFF0).mem :=
  ⟨by decide, by decide, le_refl _, Memory.wf_nil _⟩
theorem witness_LoadReadsRegistersUpToX : (State.reset.setI 0xFF0).i.toNat + (15 : Reg).val ≤ 0xFFF ∧
    (State.reset.setI 0xFFF).i.toNat + (0 : Reg).val ≤ 0xFFF ∧ (0 : Reg) ≤ 0 := by decide
/-- Between the two, V0 is cleared. -/
theorem witness_StoreThenLoadRestoresRegisters : ∃ t u r : State,
    Memory.wf (at300 []).cfg.fontRom (at300 []).mem ∧ (at300 []).i.toNat + (1 : Reg).val ≤ 0xFFF ∧
    exec (.store 1) (at300 []) = .next t ∧ u.mem = t.mem ∧ u.cfg = t.cfg ∧ u.i = (at300 []).i ∧
    exec (.load 1) u = .next r ∧ (1 : Reg) ≤ 1 := by
  obtain ⟨t, ht, hi⟩ : ∃ t, exec (.store 1) (at300 []) = .next t ∧ t.i = (at300 []).i := ⟨_, rfl, rfl⟩
  obtain ⟨r, hr⟩ := exec_answers_next (.load 1) (t.setReg 0 0)
  exact ⟨t, t.setReg 0 0, r, wf_at300 _ (by decide), by decide, ht, rfl, rfl, hi, hr, le_refl _⟩
theorem witness_StoredWordIsFetched : ∃ t u : State,
    Memory.wf (at300 []).cfg.fontRom (at300 []).mem ∧ (at300 []).i.toNat + (15 : Reg).val ≤ 0xFFF ∧
    exec (.store 15) (at300 []) = .next t ∧ (15 : Reg).val = (14 : Reg).val + 1 ∧ (15 : Reg) ≤ 15 ∧ u.mem = t.mem ∧
    u.cfg = t.cfg ∧ u.pc.toNat = (at300 []).i.toNat + (14 : Reg).val := by
  obtain ⟨t, ht⟩ := exec_answers_next (.store 15) (at300 [])
  exact ⟨t, t.setPc 0x30E, wf_at300 _ (by decide), by decide, ht, by decide, le_refl _, rfl, rfl, rfl⟩
theorem witness_OnlyStoresChangeMemoryAndIndexWritersI :
    ((∃ t, step (ready (State.reset.setReg 0 1) 0xF055) = .next t) ∧
      (run (State.reset.setReg 0 1) 0xF055).byteAt 0 ≠ (ready (State.reset.setReg 0 1) 0xF055).byteAt 0) ∧
    (run ((State.reset.setI 0xFFD).setReg 0 9) 0xF033).byteAt 0xFFF ≠
      (ready ((State.reset.setI 0xFFD).setReg 0 9) 0xF033).byteAt 0xFFF ∧
    (run State.reset 0xA300).i ≠ (ready State.reset 0xA300).i := ⟨⟨⟨_, rfl⟩, by decide⟩, by decide, by decide⟩

/-- Key registers of 0, 15 and 16, pressed and not. -/
theorem witness_SkipOnKey : (State.reset.reg 1).toNat = (0 : Reg).val ∧ State.reset.key 0 = false ∧
    ((State.reset.setReg 1 15).reg 1).toNat = (15 : Reg).val ∧ (pressed 15).key 15 = true ∧
    ((State.reset.setReg 1 16).reg 1).toNat > 15 := by decide
theorem witness_ReadDelayTimerBeforeTick : (ready (State.reset.setDelay 1) 0xF307).Runs (.getDt 3) ∧
    (ready (State.reset.setDelay 1) 0xF307).cfg.tickSource = .perCycle := ⟨runs 0xF307 (by decide), rfl⟩
theorem witness_SetTimersThenTick : (ready State.reset 0xF015).Runs (.setDt 0) ∧
    (ready State.reset 0xF015).cfg.tickSource = .perCycle ∧ (ready external 0xF015).Runs (.setDt 0) ∧
    (ready external 0xF015).cfg.tickSource = .external ∧ (ready State.reset 0xF018).Runs (.setSt 0) ∧
    (ready external 0xF018).Runs (.setSt 0) :=
  ⟨runs 0xF015 (by decide), rfl, runs 0xF015 (by decide), rfl, runs 0xF018 (by decide), runs 0xF018 (by decide)⟩
theorem witness_WaitKeyStoresLowestOrWaits : (pressed 0).key 0 = true ∧ (∀ j < 0, (pressed 0).key j = false) ∧
    (pressed 15).key 15 = true ∧ (∀ j < 15, (pressed 15).key j = false) ∧ ∀ k, State.reset.key k = false := by decide
theorem witness_InputLatchIsWrittenByHostAlone : (∃ t, step State.reset = .next t) ∧
    HostAction.timerTick ≠ .reinit ∧ (∀ k, HostAction.timerTick ≠ .setKeys k) ∧
    ∃ t, State.reset.act .timerTick = .ok t := ⟨⟨_, rfl⟩, by decide, fun _ h => (nomatch h), _, rfl⟩
theorem witness_SoundTimerIsUnobservable :
    (run (State.reset.setSound 1) 0x1200).AlikeButSound (run State.reset 0x1200) ∧
    (run (State.reset.setSound 1) 0x1200).out.beep ≠ (run State.reset 0x1200).out.beep ∧
    ∃ u, step (run (State.reset.setSound 1) 0x1200) = .next u :=
  ⟨by unfold State.AlikeButSound; decide, by decide, _, rfl⟩
theorem witness_LoadImageIsAllOrNothing : (List.replicate 3584 (0 : Byte)).length ≤ 3584 ∧
    (List.replicate 3585 (0 : Byte)).length > 3584 ∧ Memory.wf State.reset.cfg.fontRom State.reset.mem := by
  rw [List.length_replicate, List.length_replicate]
  exact ⟨le_refl _, by decide, Memory.wf_nil _⟩
theorem witness_HostTickActsOnlyInExternalMode : (external.cfg.tickSource = .external ∧ external.status = .running) ∧
    State.reset.cfg.tickSource = .perCycle ∧ (run external 0x00EE).cfg.tickSource = .external ∧
    (run external 0x00EE).status ≠ .running := by decide

end Sys2Proof.Tests
end

/-! ## Words and the rows of the opcode map (R75, R76) -/

namespace Sys2Proof

theorem and_F000_eq_iff (w m : Word) : w &&& 0xF000 = m ↔ (fieldOp w).toNat * 4096 = m.toNat := by
  rw [and_F000, ← BitVec.toNat_inj, toNat_fmtA]; simp

theorem and_F00F_eq_iff (w m : Word) : w &&& 0xF00F = m ↔ (fieldOp w).toNat * 4096 + (fieldN w).val = m.toNat := by
  rw [and_F00F, ← BitVec.toNat_inj, toNat_fmtXY]; simp

theorem and_F0FF_eq_iff (w m : Word) : w &&& 0xF0FF = m ↔ (fieldOp w).toNat * 4096 + (fieldNN w).toNat = m.toNat := by
  rw [and_F0FF, ← BitVec.toNat_inj, toNat_fmtXB]; simp

theorem and_FFFF (w : Word) : w &&& 0xFFFF = w := BitVec.and_allOnes

theorem matches_of_decodeGroup0 {w : Word} {i : Instr} (h : decodeGroup0 w = some i) :
    w &&& i.pattern.2 = i.pattern.1 := by
  unfold decodeGroup0 at h
  split at h <;> cases h
  all_goals
    next hw => exact (and_FFFF w).trans (BitVec.eq_of_toNat_eq hw)

theorem matches_of_decodeGroup8 {w : Word} {i : Instr} (hop : (fieldOp w).toNat = 0x8) (h : decodeGroup8 w = some i) :
    w &&& i.pattern.2 = i.pattern.1 := by
  unfold decodeGroup8 at h
  split at h <;> cases h
  all_goals
    next hn => exact (and_F00F_eq_iff ..).2 (by rw [hop, hn]; rfl)

theorem matches_of_decodeGroupE {w : Word} {i : Instr} (hop : (fieldOp w).toNat = 0xE) (h : decodeGroupE w = some i) :
    w &&& i.pattern.2 = i.pattern.1 := by
  unfold decodeGroupE at h
  split at h <;> cases h
  all_goals
    next hnn => exact (and_F0FF_eq_iff ..).2 (by rw [hop, hnn]; rfl)

theorem matches_of_decodeGroupF {w : Word} {i : Instr} (hop : (fieldOp w).toNat = 0xF) (h : decodeGroupF w = some i) :
    w &&& i.pattern.2 = i.pattern.1 := by
  unfold decodeGroupF at h
  split at h <;> cases h
  all_goals
    next hnn => exact (and_F0FF_eq_iff ..).2 (by rw [hop, hnn]; rfl)

/-- A word that decodes matches the row of the instruction it decodes to. -/
theorem matches_of_decodeWord {w : Word} {i : Instr} (h : decodeWord w = some i) :
    w &&& i.pattern.2 = i.pattern.1 := by
  unfold decodeWord at h
  split at h
  case h_1 => exact matches_of_decodeGroup0 h
  case h_9 hop => exact matches_of_decodeGroup8 hop h
  case h_15 hop => exact matches_of_decodeGroupE hop h
  case h_16 hop => exact matches_of_decodeGroupF hop h
  case h_6 hop | h_10 hop =>
    split_ifs at h with hn
    cases h
    exact (and_F00F_eq_iff ..).2 (by rw [hop, hn]; rfl)
  all_goals cases h
  all_goals
    next hop => exact (and_F000_eq_iff ..).2 (by rw [hop]; rfl)

end Sys2Proof

namespace Sys2Proof.Machine

/-- A pattern decodes exactly to `f` once its own words do: a word outside the row never decodes to an instruction of it. -/
theorem decodesExactly_of_matches {p : Pattern} {f : Word → Instr}
    (h : ∀ w : Word, w &&& p.2 = p.1 → decodeWord w = some (f w)) : DecodesExactly p f := by
  refine fun w => ⟨h w, fun hw i hi hp => hw ?_⟩
  subst hp
  exact matches_of_decodeWord hi

theorem decodesExactly_cls : DecodesExactly (0x00E0, 0xFFFF) (fun _ => .cls) :=
  decodesExactly_of_matches fun w hw => by
    obtain rfl : w = 0x00E0 := (and_FFFF w).symm.trans hw
    decide

/-! ## Frames of the updates -/

theorem changesOnly_advance (s : State) : ChangesOnly s s.advance fun p => p = .pc := by
  intro p hp
  cases p
  case pc => exact absurd rfl hp
  all_goals rfl

theorem changesOnly_show (s : State) (fb : Framebuffer) : ChangesOnly s (s.show fb) fun p => p = .fb ∨ p = .redraw := by
  intro p hp
  cases p
  case fb => exact absurd (.inl rfl) hp
  case redraw => exact absurd (.inr rfl) hp
  all_goals rfl

/-! ## 00E0 (R100) -/

/-- 00E0 never faults, so its own effect is what it answers. -/
theorem exec_cls (s : State) : exec .cls s = .next (s.show Framebuffer.blank).advance := exec_eq .cls s

theorem changesOnly_cls (s : State) :
    ChangesOnly s (s.show Framebuffer.blank).advance fun p => p = .fb ∨ p = .redraw ∨ p = .pc :=
  ((changesOnly_show s _).mono (by tauto)).trans ((changesOnly_advance _).mono (by tauto))

/-- Settles O22: 00E0 shows the blank screen and advances, and the frame is that of these two updates. -/
theorem clearScreenBlanksEveryPixel : Obligations.ClearScreenBlanksEveryPixel := by
  unfold Obligations.ClearScreenBlanksEveryPixel
  refine ⟨decodesExactly_cls, fun s => ⟨_, exec_cls s, fun x y _ _ => ?_, rfl, rfl, changesOnly_cls s⟩⟩
  exact Framebuffer.pixel_blank x y

end Sys2Proof.Machine

/-! ## Words of a format and what they decode to (R72, R75, R77) -/

namespace Sys2Proof

theorem fieldOp_of_and_F000 {w m : Word} (h : w &&& 0xF000 = m) : (fieldOp w).toNat = m.toNat / 4096 := by
  have := (and_F000_eq_iff w m).1 h
  omega

theorem fieldOp_of_and_F00F {w m : Word} (h : w &&& 0xF00F = m) : (fieldOp w).toNat = m.toNat / 4096 := by
  have := (and_F00F_eq_iff w m).1 h
  omega

theorem fieldN_of_and_F00F {w m : Word} (h : w &&& 0xF00F = m) : (fieldN w).val = m.toNat % 4096 := by
  have := (and_F00F_eq_iff w m).1 h
  omega

theorem toNat_and_F (w : Word) : (w &&& 0xF).toNat = (fieldN w).val := by
  rw [BitVec.toNat_and, val_fieldN]
  exact Nat.and_two_pow_sub_one_eq_mod w.toNat 4

theorem fieldN_ne_zero_of_and_F {w : Word} (h : w &&& 0xF ≠ 0) : (fieldN w).val ≠ 0 := fun hn =>
  h (BitVec.eq_of_toNat_eq ((toNat_and_F w).trans hn))

theorem decodeWord_of_op_1 {w : Word} (h : (fieldOp w).toNat = 0x1) : decodeWord w = some (.jump (fieldNNN w)) := by
  simp only [decodeWord, h]

theorem decodeWord_of_op_3 {w : Word} (h : (fieldOp w).toNat = 0x3) :
    decodeWord w = some (.seImm (fieldX w) (fieldNN w)) := by
  simp only [decodeWord, h]

theorem decodeWord_of_op_4 {w : Word} (h : (fieldOp w).toNat = 0x4) :
    decodeWord w = some (.sneImm (fieldX w) (fieldNN w)) := by
  simp only [decodeWord, h]

theorem decodeWord_of_op_5 {w : Word} (h : (fieldOp w).toNat = 0x5) :
    decodeWord w = if (fieldN w).val = 0 then some (.seReg (fieldX w) (fieldY w)) else none := by
  simp only [decodeWord, h]

theorem decodeWord_of_op_9 {w : Word} (h : (fieldOp w).toNat = 0x9) :
    decodeWord w = if (fieldN w).val = 0 then some (.sneReg (fieldX w) (fieldY w)) else none := by
  simp only [decodeWord, h]

/-- In groups 5 and 9 a low nibble other than 0 makes the word unknown (R126, R127). -/
theorem decodeWord_eq_none_of_lowNibble {w : Word} (hop : w &&& 0xF000 = 0x5000 ∨ w &&& 0xF000 = 0x9000)
    (hn : w &&& 0xF ≠ 0) : decodeWord w = none := by
  have hN := fieldN_ne_zero_of_and_F hn
  rcases hop with h | h
  · rw [decodeWord_of_op_5 (fieldOp_of_and_F000 h), if_neg hN]
  · rw [decodeWord_of_op_9 (fieldOp_of_and_F000 h), if_neg hN]

end Sys2Proof

namespace Sys2Proof.Machine

theorem decodesExactly_jump : DecodesExactly (0x1000, 0xF000) (fun w => .jump (fieldNNN w)) :=
  decodesExactly_of_matches fun _ hw => decodeWord_of_op_1 (fieldOp_of_and_F000 hw)

theorem decodesExactly_seImm : DecodesExactly (0x3000, 0xF000) (fun w => .seImm (fieldX w) (fieldNN w)) :=
  decodesExactly_of_matches fun _ hw => decodeWord_of_op_3 (fieldOp_of_and_F000 hw)

theorem decodesExactly_sneImm : DecodesExactly (0x4000, 0xF000) (fun w => .sneImm (fieldX w) (fieldNN w)) :=
  decodesExactly_of_matches fun _ hw => decodeWord_of_op_4 (fieldOp_of_and_F000 hw)

theorem decodesExactly_seReg : DecodesExactly (0x5000, 0xF00F) (fun w => .seReg (fieldX w) (fieldY w)) :=
  decodesExactly_of_matches fun _ hw =>
    (decodeWord_of_op_5 (fieldOp_of_and_F00F hw)).trans (if_pos (fieldN_of_and_F00F hw))

theorem decodesExactly_sneReg : DecodesExactly (0x9000, 0xF00F) (fun w => .sneReg (fieldX w) (fieldY w)) :=
  decodesExactly_of_matches fun _ hw =>
    (decodeWord_of_op_9 (fieldOp_of_and_F00F hw)).trans (if_pos (fieldN_of_and_F00F hw))

/-! ## Writing PC alone (R25, R73, R120) -/

theorem toNat_zextAddr (nnn : BitVec 12) : (zextAddr nnn).toNat = nnn.toNat :=
  BitVec.toNat_setWidth_of_le (by decide)

theorem State.setPc_self (s : State) : s.setPc s.pc = s := rfl

theorem changesOnly_setPc (s : State) (w : Word) : ChangesOnly s (s.setPc w) fun p => p = .pc := by
  intro p hp
  cases p
  case pc => exact absurd rfl hp
  all_goals rfl

/-- An instruction that answers a skip on `c`, where `c` decides between `P` and `Q`: PC + 4 under `P`, PC + 2 under `Q`,
and PC alone changes (R120). -/
theorem exec_skip {s : State} {i : Instr} {c : Bool} {P Q : Prop} (hi : exec i s = .next (s.skipIf c))
    (hP : c = true ↔ P) (hQ : c = false ↔ Q) :
    ∃ t, exec i s = .next t ∧ (P → t.pc = s.pc + 4) ∧ (Q → t.pc = s.pc + 2) ∧ ChangesOnly s t fun p => p = .pc := by
  refine ⟨_, hi, fun p => ?_, fun q => ?_, ?_⟩
  · rw [hP.2 p]; rfl
  · rw [hQ.2 q]; rfl
  · rw [State.skipIf_eq]; exact changesOnly_setPc s _

theorem exec_seImm (x : Reg) (nn : Byte) (s : State) : exec (.seImm x nn) s = .next (s.skipIf (s.reg x == nn)) :=
  exec_eq (.seImm x nn) s

theorem exec_sneImm (x : Reg) (nn : Byte) (s : State) : exec (.sneImm x nn) s = .next (s.skipIf (s.reg x != nn)) :=
  exec_eq (.sneImm x nn) s

theorem exec_seReg (x y : Reg) (s : State) : exec (.seReg x y) s = .next (s.skipIf (s.reg x == s.reg y)) :=
  exec_eq (.seReg x y) s

theorem exec_sneReg (x y : Reg) (s : State) : exec (.sneReg x y) s = .next (s.skipIf (s.reg x != s.reg y)) :=
  exec_eq (.sneReg x y) s

theorem exec_jump (nnn : BitVec 12) (s : State) : exec (.jump nnn) s = .next (s.setPc (zextAddr nnn)) :=
  exec_eq (.jump nnn) s

/-! ## A step that runs an instruction (R90, R92) -/

/-- The step of a core that runs `i` is `i`'s effect and the end of a step. -/
theorem step_of_runs {s t : State} {i : Instr} (hr : s.Runs i) (hi : exec i s = .next t) :
    step s = .next (t.finish none) := by
  obtain ⟨⟨hs, hw⟩, w, hf, hd⟩ := hr
  simp only [step, hs, hw, hf, hd, hi]

/-- A step that ends Ready is Completed. -/
theorem finish_ready_result {s : State} (h : s.Ready) (w : Option DecodeWarning) :
    (s.finish w).out.result = some .completed := by
  rw [State.finish_ready s w h, State.emit_out]

/-- In PerCycle mode a step that ends Ready takes both timers one down, and no lower than 0. -/
theorem finish_ready_timers {s : State} (h : s.Ready) (w : Option DecodeWarning) (hc : s.cfg.tickSource = .perCycle) :
    (s.finish w).dt.toNat = s.dt.toNat - 1 ∧ (s.finish w).st.toNat = s.st.toNat - 1 := by
  rw [State.finish_ready s w h, State.timerStep_perCycle s hc]
  exact ⟨toNat_countDown s.dt, toNat_countDown s.st⟩

/-! ## 1NNN (R122) -/

/-- A jump to 0xFFF leaves PC where only one byte of a word exists (R71). -/
theorem fetch_setPc_FFF (s : State) : (s.setPc (zextAddr 0xFFF)).fetch = .error (.indexOutOfRange 0x1000) :=
  State.fetch_error _ (by rw [State.setPc_pc, toNat_zextAddr]; decide)

theorem exec_jump_self {s : State} {nnn : BitVec 12} (h : s.pc.toNat = nnn.toNat) : exec (.jump nnn) s = .next s := by
  have hpc : zextAddr nnn = s.pc := BitVec.eq_of_toNat_eq ((toNat_zextAddr nnn).trans h.symm)
  rw [exec_jump, hpc, State.setPc_self]

/-- Settles O28: the jump is one PC write; a jump to itself answers the state it started from, so its step is the end of a
step alone. -/
theorem jumpSetsProgramCounter : Obligations.JumpSetsProgramCounter := by
  unfold Obligations.JumpSetsProgramCounter
  refine ⟨decodesExactly_jump, fun s nnn => ⟨_, exec_jump nnn s, toNat_zextAddr nnn, ?_, ?_, changesOnly_setPc s _⟩⟩
  · rintro rfl
    exact fetch_setPc_FFF s
  · intro hr hpc
    exact ⟨_, step_of_runs hr (exec_jump_self hpc), s.finish_pc none, finish_ready_result hr.1 none,
      finish_ready_timers hr.1 none⟩

/-! ## 3XNN, 4XNN, 5XY0, 9XY0 (R124 to R127) -/

/-- Settles O30: both are skips, on equality with the immediate and on its negation. -/
theorem skipOnImmediate : Obligations.SkipOnImmediate := by
  unfold Obligations.SkipOnImmediate
  refine ⟨decodesExactly_seImm, decodesExactly_sneImm, fun s x nn => ⟨?_, ?_⟩⟩
  · exact exec_skip (exec_seImm x nn s) beq_iff_eq beq_eq_false_iff_ne
  · exact exec_skip (exec_sneImm x nn s) bne_iff_ne bne_eq_false_iff_eq

/-- Settles O31: both are skips, on equality of the registers and on its negation; groups 5 and 9 decode only with a low
nibble of 0. -/
theorem skipOnRegisters : Obligations.SkipOnRegisters := by
  unfold Obligations.SkipOnRegisters
  refine ⟨decodesExactly_seReg, decodesExactly_sneReg, fun _ => decodeWord_eq_none_of_lowNibble,
    fun s x y => ⟨?_, ?_⟩⟩
  · exact exec_skip (exec_seReg x y s) beq_iff_eq beq_eq_false_iff_ne
  · exact exec_skip (exec_sneReg x y s) bne_iff_ne bne_eq_false_iff_eq

end Sys2Proof.Machine

/-! ## Words of groups 6 and 8 (R75, R77) -/

namespace Sys2Proof

theorem decodeWord_of_op_6 {w : Word} (h : (fieldOp w).toNat = 0x6) :
    decodeWord w = some (.ldImm (fieldX w) (fieldNN w)) := by
  simp only [decodeWord, h]

theorem decodeWord_of_op_8 {w : Word} (h : (fieldOp w).toNat = 0x8) : decodeWord w = decodeGroup8 w := by
  simp only [decodeWord, h]

end Sys2Proof

namespace Sys2Proof.Machine

theorem decodesExactly_ldImm : DecodesExactly (0x6000, 0xF000) (fun w => .ldImm (fieldX w) (fieldNN w)) :=
  decodesExactly_of_matches fun _ hw => decodeWord_of_op_6 (fieldOp_of_and_F000 hw)

/-- A row of group 8 decodes exactly to what the group's decoder answers on the row's low nibble. -/
theorem decodesExactly_of_group8 {m : Word} {f : Word → Instr} (hm : m.toNat / 4096 = 0x8)
    (h : ∀ w : Word, (fieldN w).val = m.toNat % 4096 → decodeGroup8 w = some (f w)) : DecodesExactly (m, 0xF00F) f :=
  decodesExactly_of_matches fun w hw =>
    (decodeWord_of_op_8 ((fieldOp_of_and_F00F hw).trans hm)).trans (h w (fieldN_of_and_F00F hw))

theorem decodesExactly_mov : DecodesExactly (0x8000, 0xF00F) (fun w => .mov (fieldX w) (fieldY w)) :=
  decodesExactly_of_group8 rfl fun w (hn : (fieldN w).val = 0x0) => by simp only [decodeGroup8, hn]

theorem decodesExactly_addReg : DecodesExactly (0x8004, 0xF00F) (fun w => .addReg (fieldX w) (fieldY w)) :=
  decodesExactly_of_group8 rfl fun w (hn : (fieldN w).val = 0x4) => by simp only [decodeGroup8, hn]

theorem decodesExactly_subReg : DecodesExactly (0x8005, 0xF00F) (fun w => .subReg (fieldX w) (fieldY w)) :=
  decodesExactly_of_group8 rfl fun w (hn : (fieldN w).val = 0x5) => by simp only [decodeGroup8, hn]

theorem decodesExactly_shr : DecodesExactly (0x8006, 0xF00F) (fun w => .shr (fieldX w) (fieldY w)) :=
  decodesExactly_of_group8 rfl fun w (hn : (fieldN w).val = 0x6) => by simp only [decodeGroup8, hn]

theorem decodesExactly_shl : DecodesExactly (0x800E, 0xF00F) (fun w => .shl (fieldX w) (fieldY w)) :=
  decodesExactly_of_group8 rfl fun w (hn : (fieldN w).val = 0xE) => by simp only [decodeGroup8, hn]

/-! ## Writing one register, and writing a register and then VF (R21, R22) -/

theorem changesOnly_setReg (s : State) (x : Reg) (b : Byte) : ChangesOnly s (s.setReg x b) fun p => p = .v x := by
  intro p hp
  cases p
  case v z => exact (s.reg_setReg x z b).trans (if_neg fun hz => hp (congrArg Part.v hz))
  all_goals rfl

theorem changesOnly_setRegFlag (s : State) (x : Reg) (r f : Byte) :
    ChangesOnly s (s.setRegFlag x r f) fun p => p = .v x ∨ p = .v regF :=
  ((changesOnly_setReg s x r).mono fun _ => .inl).trans ((changesOnly_setReg _ regF f).mono fun _ => .inr)

/-- An instruction that answers one register write and the advance: the register holds the value, and only it and PC
change (R150). -/
theorem exec_writesReg {s : State} {i : Instr} {x : Reg} {b : Byte} (hi : exec i s = .next (s.setReg x b).advance) :
    ∃ t, exec i s = .next t ∧ t.reg x = b ∧ t.pc = s.pc + 2 ∧ ChangesOnly s t fun p => p = .v x ∨ p = .pc := by
  refine ⟨_, hi, (s.reg_setReg x x b).trans (if_pos rfl), rfl, ?_⟩
  exact ((changesOnly_setReg s x b).mono fun _ => .inl).trans ((changesOnly_advance _).mono fun _ => .inr)

/-- An instruction that answers a flag writer's commit and the advance: VF holds the flag even when X is F, the result is in
VX otherwise, and only VX, VF and PC change (R22, R150). -/
theorem exec_writesRegFlag {s : State} {i : Instr} {x : Reg} {r f : Byte}
    (hi : exec i s = .next (s.setRegFlag x r f).advance) :
    ∃ t, exec i s = .next t ∧ (x ≠ regF → t.reg x = r) ∧ t.reg regF = f ∧ t.pc = s.pc + 2 ∧
      ChangesOnly s t fun p => p = .v x ∨ p = .v regF ∨ p = .pc := by
  refine ⟨_, hi, fun hx => ?_, (s.reg_setRegFlag x regF r f).trans (if_pos rfl), rfl, ?_⟩
  · rw [State.reg_advance, State.reg_setRegFlag, if_neg hx, if_pos rfl]
  · exact ((changesOnly_setRegFlag s x r f).mono (by tauto)).trans ((changesOnly_advance _).mono (by tauto))

/-! ## 6XNN and 8XY0 (R151, R153) -/

theorem exec_ldImm (x : Reg) (nn : Byte) (s : State) : exec (.ldImm x nn) s = .next (s.setReg x nn).advance :=
  exec_eq (.ldImm x nn) s

theorem exec_mov (x y : Reg) (s : State) : exec (.mov x y) s = .next (s.setReg x (s.reg y)).advance :=
  exec_eq (.mov x y) s

/-- Settles O35: both write one register and advance. -/
theorem loadImmediateAndCopy : Obligations.LoadImmediateAndCopy := by
  unfold Obligations.LoadImmediateAndCopy
  refine ⟨decodesExactly_ldImm, decodesExactly_mov, fun s x y nn => ⟨?_, ?_⟩⟩
  · exact exec_writesReg (exec_ldImm x nn s)
  · exact exec_writesReg (exec_mov x y s)

/-! ## Results and flags as numbers (R23, R157 to R161) -/

theorem toNat_addResult (a b : Byte) : (addResult a b).toNat = (a.toNat + b.toNat) % 256 := BitVec.toNat_ofNat _ 8

theorem toNat_subResult (a b : Byte) : (subResult a b).toNat = (a.toNat + 256 - b.toNat) % 256 := BitVec.toNat_ofNat _ 8

theorem toNat_shlResult (a : Byte) : (shlResult a).toNat = a.toNat * 2 % 256 := BitVec.toNat_ofNat _ 8

/-- Halving a byte stays within a byte, so R159's truncation loses nothing. -/
theorem toNat_shrResult (a : Byte) : (shrResult a).toNat = a.toNat / 2 := by
  have ha : a.toNat < 256 := a.isLt
  exact (BitVec.toNat_ofNat _ 8).trans (Nat.mod_eq_of_lt (by omega))

theorem carryFlag_of_gt {a b : Byte} (h : a.toNat + b.toNat > 255) : carryFlag a b = 1 := by
  rw [carryFlag, decide_eq_true h]; rfl

theorem carryFlag_of_le {a b : Byte} (h : a.toNat + b.toNat ≤ 255) : carryFlag a b = 0 := by
  rw [carryFlag, decide_eq_false (Nat.not_lt.2 h)]; rfl

theorem notBorrowFlag_of_lt {a b : Byte} (h : a.toNat < b.toNat) : notBorrowFlag a b = 0 := by
  rw [notBorrowFlag, decide_eq_true h]; rfl

theorem notBorrowFlag_of_le {a b : Byte} (h : b.toNat ≤ a.toNat) : notBorrowFlag a b = 1 := by
  rw [notBorrowFlag, decide_eq_false (Nat.not_lt.2 h)]; rfl

theorem toNat_flagOf (c : Bool) : (flagOf c).toNat = c.toNat := by cases c <;> rfl

/-- A bit of a byte as a flag is that binary digit. -/
theorem toNat_flagOf_getLsbD (a : Byte) (k : Nat) : (flagOf (a.getLsbD k)).toNat = a.toNat / 2 ^ k % 2 :=
  (toNat_flagOf _).trans (Nat.toNat_testBit a.toNat k)

theorem toNat_shrFlag (a : Byte) : (shrFlag a).toNat = a.toNat % 2 := by
  rw [shrFlag, toNat_flagOf_getLsbD, pow_zero, Nat.div_one]

/-- Bit 7 is the top bit, so it is all that a byte holds from 128 up. -/
theorem toNat_shlFlag (a : Byte) : (shlFlag a).toNat = a.toNat / 128 := by
  have ha : a.toNat < 256 := a.isLt
  exact (toNat_flagOf_getLsbD a 7).trans (Nat.mod_eq_of_lt (by omega))

/-! ## 8XY4 and 8XY5 (R157, R158) -/

theorem exec_addReg (x y : Reg) (s : State) : exec (.addReg x y) s =
    .next (s.setRegFlag x (addResult (s.reg x) (s.reg y)) (carryFlag (s.reg x) (s.reg y))).advance :=
  exec_eq (.addReg x y) s

theorem exec_subReg (x y : Reg) (s : State) : exec (.subReg x y) s =
    .next (s.setRegFlag x (subResult (s.reg x) (s.reg y)) (notBorrowFlag (s.reg x) (s.reg y))).advance :=
  exec_eq (.subReg x y) s

/-- Settles O38: both are a flag writer's commit, of the sum with the carry and of the difference with the not-borrow. -/
theorem addAndSubtractSetFlagLast : Obligations.AddAndSubtractSetFlagLast := by
  unfold Obligations.AddAndSubtractSetFlagLast
  refine ⟨decodesExactly_addReg, decodesExactly_subReg, fun s x y => ⟨?_, ?_⟩⟩
  · obtain ⟨t, ht, hx, hf, hpc, hframe⟩ := exec_writesRegFlag (exec_addReg x y s)
    refine ⟨t, ht, fun hne => ?_, fun h => hf.trans (carryFlag_of_gt h), fun h => hf.trans (carryFlag_of_le h), hpc, hframe⟩
    rw [hx hne, toNat_addResult]
  · obtain ⟨t, ht, hx, hf, hpc, hframe⟩ := exec_writesRegFlag (exec_subReg x y s)
    refine ⟨t, ht, fun hne => ?_, fun h => hf.trans (notBorrowFlag_of_lt h), fun h => hf.trans (notBorrowFlag_of_le h),
      hpc, hframe⟩
    rw [hx hne, toNat_subResult]

/-! ## 8XY6 and 8XYE (R159, R161) -/

theorem exec_shr (x y : Reg) (s : State) :
    exec (.shr x y) s = .next (s.setRegFlag x (shrResult (s.reg x)) (shrFlag (s.reg x))).advance :=
  exec_eq (.shr x y) s

theorem exec_shl (x y : Reg) (s : State) :
    exec (.shl x y) s = .next (s.setRegFlag x (shlResult (s.reg x)) (shlFlag (s.reg x))).advance :=
  exec_eq (.shl x y) s

/-- Settles O39: both are a flag writer's commit whose result and flag are read off VX alone. -/
theorem shiftsIgnoreYAndSetFlagLast : Obligations.ShiftsIgnoreYAndSetFlagLast := by
  unfold Obligations.ShiftsIgnoreYAndSetFlagLast
  refine ⟨decodesExactly_shr, decodesExactly_shl, fun s x y => ⟨?_, ?_⟩⟩
  · obtain ⟨t, ht, hx, hf, hpc, hframe⟩ := exec_writesRegFlag (exec_shr x y s)
    refine ⟨t, ht, fun hne => ?_, ?_, hpc, hframe⟩
    · rw [hx hne, toNat_shrResult]
    · rw [hf, toNat_shrFlag]
  · obtain ⟨t, ht, hx, hf, hpc, hframe⟩ := exec_writesRegFlag (exec_shl x y s)
    refine ⟨t, ht, fun hne => ?_, ?_, hpc, hframe⟩
    · rw [hx hne, toNat_shlResult]
    · rw [hf, toNat_shlFlag]

end Sys2Proof.Machine

/-! ## Words of group A (R75, R77) -/

namespace Sys2Proof

theorem decodeWord_of_op_A {w : Word} (h : (fieldOp w).toNat = 0xA) : decodeWord w = some (.ldI (fieldNNN w)) := by
  simp only [decodeWord, h]

end Sys2Proof

namespace Sys2Proof.Machine

theorem decodesExactly_ldI : DecodesExactly (0xA000, 0xF000) (fun w => .ldI (fieldNNN w)) :=
  decodesExactly_of_matches fun _ hw => decodeWord_of_op_A (fieldOp_of_and_F000 hw)

/-! ## Writing I (R24) -/

theorem changesOnly_setI (s : State) (a : Word) : ChangesOnly s (s.setI a) fun p => p = .i := by
  intro p hp
  cases p
  case i => exact absurd rfl hp
  all_goals rfl

/-- An instruction that answers one write of I and the advance: I holds the value as written, and only I and PC change. -/
theorem exec_writesI {s : State} {i : Instr} {a : Word} (hi : exec i s = .next (s.setI a).advance) :
    ∃ t, exec i s = .next t ∧ t.i = a ∧ t.pc = s.pc + 2 ∧ ChangesOnly s t fun p => p = .i ∨ p = .pc := by
  refine ⟨_, hi, rfl, rfl, ?_⟩
  exact ((changesOnly_setI s a).mono fun _ => .inl).trans ((changesOnly_advance _).mono fun _ => .inr)

/-! ## ANNN (R180) -/

theorem exec_ldI (nnn : BitVec 12) (s : State) : exec (.ldI nnn) s = .next (s.setI (zextAddr nnn)).advance :=
  exec_eq (.ldI nnn) s

/-- Settles O43: ANNN is one write of I, of the address zero-extended, and the advance. -/
theorem loadIndexWritesAddress : Obligations.LoadIndexWritesAddress := by
  unfold Obligations.LoadIndexWritesAddress
  refine ⟨decodesExactly_ldI, fun s nnn => ?_⟩
  obtain ⟨t, ht, hI, hpc, hframe⟩ := exec_writesI (exec_ldI nnn s)
  exact ⟨t, ht, (congrArg BitVec.toNat hI).trans (toNat_zextAddr nnn), hpc, hframe⟩

end Sys2Proof.Machine

/-! ## The timer tick (R210 to R212) -/

namespace Sys2Proof.Machine

theorem toNat_countDown_add_one {b : Byte} (h : b.toNat > 0) : (countDown b).toNat + 1 = b.toNat := by
  rw [toNat_countDown, Nat.sub_add_cancel h]

theorem toNat_countDown_of_toNat_eq_zero {b : Byte} (h : b.toNat = 0) : (countDown b).toNat = 0 := by
  rw [toNat_countDown, h]

theorem State.tickBeeps_iff (s : State) : s.tickBeeps = true ↔ s.st.toNat = 1 :=
  beq_iff_eq.trans BitVec.toNat_inj.symm

theorem changesOnly_tick (s : State) : ChangesOnly s s.tick fun p => p = .dt ∨ p = .st := by
  intro p hp
  cases p
  case dt => exact absurd (.inl rfl) hp
  case st => exact absurd (.inr rfl) hp
  all_goals rfl

/-- Settles O14: both timers are counted down by the same function, and one that meets 1 reaches 0. -/
theorem timerTickCountsDown : Obligations.TimerTickCountsDown := by
  unfold Obligations.TimerTickCountsDown
  intro s
  refine ⟨toNat_countDown_add_one, toNat_countDown_of_toNat_eq_zero, toNat_countDown_add_one,
    toNat_countDown_of_toNat_eq_zero, ?_, changesOnly_tick s⟩
  have reachesZero : s.st.toNat = 1 → s.tick.st.toNat = 0 := fun h => by rw [State.tick_st, toNat_countDown, h]
  rw [State.tickBeeps_iff, and_iff_left_of_imp reachesZero]

end Sys2Proof.Machine

/-! ## The fields of an encoded word (R72, R74) -/

namespace Sys2Proof

@[simp] theorem fieldOp_fmtA (op : BitVec 4) (nnn : BitVec 12) : fieldOp (fmtA op nnn) = op := (fields_fmtA op nnn).1

@[simp] theorem fieldNNN_fmtA (op : BitVec 4) (nnn : BitVec 12) : fieldNNN (fmtA op nnn) = nnn := (fields_fmtA op nnn).2

@[simp] theorem fieldOp_fmtXB (op : BitVec 4) (x : Reg) (nn : Byte) : fieldOp (fmtXB op x nn) = op :=
  (fields_fmtXB op x nn).1

@[simp] theorem fieldX_fmtXB (op : BitVec 4) (x : Reg) (nn : Byte) : fieldX (fmtXB op x nn) = x :=
  (fields_fmtXB op x nn).2.1

@[simp] theorem fieldNN_fmtXB (op : BitVec 4) (x : Reg) (nn : Byte) : fieldNN (fmtXB op x nn) = nn :=
  (fields_fmtXB op x nn).2.2

@[simp] theorem fieldOp_fmtXY (op : BitVec 4) (x y : Reg) (n : Fin 16) : fieldOp (fmtXY op x y n) = op :=
  (fields_fmtXY op x y n).1

@[simp] theorem fieldX_fmtXY (op : BitVec 4) (x y : Reg) (n : Fin 16) : fieldX (fmtXY op x y n) = x :=
  (fields_fmtXY op x y n).2.1

@[simp] theorem fieldY_fmtXY (op : BitVec 4) (x y : Reg) (n : Fin 16) : fieldY (fmtXY op x y n) = y :=
  (fields_fmtXY op x y n).2.2.1

@[simp] theorem fieldN_fmtXY (op : BitVec 4) (x y : Reg) (n : Fin 16) : fieldN (fmtXY op x y n) = n :=
  (fields_fmtXY op x y n).2.2.2

/-! ## Decoding and encoding are inverse (R53, R70, R75) -/

@[simp] theorem nibbleWellFormed_val (x : Fin 16) : nibbleWellFormed x.val = true := decide_eq_true x.isLt

@[simp] theorem byteWellFormed_toNat (b : Byte) : byteWellFormed b.toNat = true := decide_eq_true b.isLt

@[simp] theorem addrWellFormed_toNat (a : BitVec 12) : addrWellFormed a.toNat = true := decide_eq_true a.isLt

/-- Every operand is in its field's range by its type (R73). -/
theorem Instr.wellFormed_eq_true (i : Instr) : i.wellFormed = true := by
  cases i <;> simp [Instr.wellFormed]

/-- The decoder reads back the fields that the format of the instruction wrote. -/
theorem decodeWord_encode (i : Instr) : decodeWord (encode i) = some i := by
  cases i
  case cls | ret => decide
  case jump nnn | call nnn | ldI nnn | jumpV0 nnn => simp [encode, decodeWord]
  case seImm x nn | sneImm x nn | ldImm x nn | addImm x nn | rnd x nn => simp [encode, decodeWord]
  case seReg x y | sneReg x y | draw x y n => simp [encode, decodeWord]
  case mov x y | orReg x y | andReg x y | xorReg x y | addReg x y | subReg x y | shr x y | subnReg x y | shl x y =>
    simp [encode, decodeWord, decodeGroup8]
  case skp x | sknp x => simp [encode, decodeWord, decodeGroupE]
  case getDt x | waitKey x | setDt x | setSt x | addI x | glyph x | bcd x | store x | load x =>
    simp [encode, decodeWord, decodeGroupF]

theorem decodeBytes_encode (i : Instr) (rest : List Byte) :
    decodeBytes (hiByte (encode i) :: loByte (encode i) :: rest) = .ok (i, rest) := by
  simp only [decodeBytes, wordOfBytes_hi_lo, decodeWord_encode]

/-- Settles O1: the decoder reads back each format's fields, and a word is its two bytes. -/
theorem decodeEncodeRoundTrip : Obligations.DecodeEncodeRoundTrip := by
  unfold Obligations.DecodeEncodeRoundTrip
  exact fun i => ⟨i.wellFormed_eq_true, decodeWord_encode i, decodeBytes_encode i⟩

/-- A word is rebuilt by format A from its op and its address. -/
theorem fmtA_of_op {w : Word} {op : BitVec 4} (h : (fieldOp w).toNat = op.toNat) : fmtA op (fieldNNN w) = w := by
  rw [← BitVec.eq_of_toNat_eq h, fmtA_fields]

/-- A word is rebuilt by format XB from its op, X and low byte. -/
theorem fmtXB_of_op {w : Word} {op : BitVec 4} (h : (fieldOp w).toNat = op.toNat) :
    fmtXB op (fieldX w) (fieldNN w) = w := by
  rw [← BitVec.eq_of_toNat_eq h, fmtXB_fields]

/-- A word of format XF is rebuilt from its op, X and fixed low byte. -/
theorem fmtXB_of_op_of_NN {w : Word} {op : BitVec 4} {nn : Byte} (h : (fieldOp w).toNat = op.toNat)
    (hnn : (fieldNN w).toNat = nn.toNat) : fmtXB op (fieldX w) nn = w := by
  rw [← BitVec.eq_of_toNat_eq hnn, fmtXB_of_op h]

/-- A word is rebuilt by format XYN from its op, X, Y and low nibble. -/
theorem fmtXY_of_op {w : Word} {op : BitVec 4} (h : (fieldOp w).toNat = op.toNat) :
    fmtXY op (fieldX w) (fieldY w) (fieldN w) = w := by
  rw [← BitVec.eq_of_toNat_eq h, fmtXY_fields]

/-- A word of format XY is rebuilt from its op, X, Y and fixed low nibble. -/
theorem fmtXY_of_op_of_N {w : Word} {op : BitVec 4} {n : Fin 16} (h : (fieldOp w).toNat = op.toNat)
    (hn : (fieldN w).val = n.val) : fmtXY op (fieldX w) (fieldY w) n = w := by
  rw [← Fin.ext hn, fmtXY_of_op h]

theorem encode_of_decodeGroup0 {w : Word} {i : Instr} (h : decodeGroup0 w = some i) : encode i = w := by
  unfold decodeGroup0 at h
  split at h <;> cases h
  all_goals
    next hw => exact (BitVec.eq_of_toNat_eq hw).symm

theorem encode_of_decodeGroup8 {w : Word} {i : Instr} (hop : (fieldOp w).toNat = 0x8) (h : decodeGroup8 w = some i) :
    encode i = w := by
  unfold decodeGroup8 at h
  split at h <;> cases h
  all_goals
    next hn => exact fmtXY_of_op_of_N hop hn

theorem encode_of_decodeGroupE {w : Word} {i : Instr} (hop : (fieldOp w).toNat = 0xE) (h : decodeGroupE w = some i) :
    encode i = w := by
  unfold decodeGroupE at h
  split at h <;> cases h
  all_goals
    next hnn => exact fmtXB_of_op_of_NN hop hnn

theorem encode_of_decodeGroupF {w : Word} {i : Instr} (hop : (fieldOp w).toNat = 0xF) (h : decodeGroupF w = some i) :
    encode i = w := by
  unfold decodeGroupF at h
  split at h <;> cases h
  all_goals
    next hnn => exact fmtXB_of_op_of_NN hop hnn

/-- The encoder writes back the fields that the decoder read, group by group of R77. -/
theorem encode_of_decodeWord {w : Word} {i : Instr} (h : decodeWord w = some i) : encode i = w := by
  unfold decodeWord at h
  split at h
  case h_1 => exact encode_of_decodeGroup0 h
  case h_9 hop => exact encode_of_decodeGroup8 hop h
  case h_15 hop => exact encode_of_decodeGroupE hop h
  case h_16 hop => exact encode_of_decodeGroupF hop h
  case h_6 hop | h_10 hop =>
    split_ifs at h with hn
    cases h
    exact fmtXY_of_op_of_N hop hn
  case h_2 hop | h_3 hop | h_11 hop | h_12 hop => cases h; exact fmtA_of_op hop
  case h_4 hop | h_5 hop | h_7 hop | h_8 hop | h_13 hop => cases h; exact fmtXB_of_op hop
  case h_14 hop => cases h; exact fmtXY_of_op hop
  case h_17 => cases h

/-- Settles O2: every format keeps all 16 bits of the word, the ignored Y of the shifts included. -/
theorem encodeDecodeRoundTrip : Obligations.EncodeDecodeRoundTrip := by
  unfold Obligations.EncodeDecodeRoundTrip
  exact fun _ _ => encode_of_decodeWord

end Sys2Proof

/-! ## The remaining words of the decoder's groups (R75, R77) -/

namespace Sys2Proof

theorem decodeWord_of_op_2 {w : Word} (h : (fieldOp w).toNat = 0x2) : decodeWord w = some (.call (fieldNNN w)) := by
  simp only [decodeWord, h]

theorem decodeWord_of_op_7 {w : Word} (h : (fieldOp w).toNat = 0x7) :
    decodeWord w = some (.addImm (fieldX w) (fieldNN w)) := by
  simp only [decodeWord, h]

theorem decodeWord_of_op_B {w : Word} (h : (fieldOp w).toNat = 0xB) : decodeWord w = some (.jumpV0 (fieldNNN w)) := by
  simp only [decodeWord, h]

theorem decodeWord_of_op_C {w : Word} (h : (fieldOp w).toNat = 0xC) :
    decodeWord w = some (.rnd (fieldX w) (fieldNN w)) := by
  simp only [decodeWord, h]

theorem decodeWord_of_op_D {w : Word} (h : (fieldOp w).toNat = 0xD) :
    decodeWord w = some (.draw (fieldX w) (fieldY w) (fieldN w)) := by
  simp only [decodeWord, h]

theorem decodeWord_of_op_E {w : Word} (h : (fieldOp w).toNat = 0xE) : decodeWord w = decodeGroupE w := by
  simp only [decodeWord, h]

theorem decodeWord_of_op_F {w : Word} (h : (fieldOp w).toNat = 0xF) : decodeWord w = decodeGroupF w := by
  simp only [decodeWord, h]

theorem fieldOp_of_and_F0FF {w m : Word} (h : w &&& 0xF0FF = m) : (fieldOp w).toNat = m.toNat / 4096 := by
  have := (and_F0FF_eq_iff w m).1 h
  have := (fieldNN w).isLt
  omega

theorem fieldNN_of_and_F0FF {w m : Word} (h : w &&& 0xF0FF = m) : (fieldNN w).toNat = m.toNat % 4096 := by
  have := (and_F0FF_eq_iff w m).1 h
  have := (fieldNN w).isLt
  omega

end Sys2Proof

namespace Sys2Proof.Machine

theorem decodesExactly_ret : DecodesExactly (0x00EE, 0xFFFF) (fun _ => .ret) :=
  decodesExactly_of_matches fun w hw => by
    obtain rfl : w = 0x00EE := (and_FFFF w).symm.trans hw
    decide

theorem decodesExactly_call : DecodesExactly (0x2000, 0xF000) (fun w => .call (fieldNNN w)) :=
  decodesExactly_of_matches fun _ hw => decodeWord_of_op_2 (fieldOp_of_and_F000 hw)

theorem decodesExactly_addImm : DecodesExactly (0x7000, 0xF000) (fun w => .addImm (fieldX w) (fieldNN w)) :=
  decodesExactly_of_matches fun _ hw => decodeWord_of_op_7 (fieldOp_of_and_F000 hw)

theorem decodesExactly_jumpV0 : DecodesExactly (0xB000, 0xF000) (fun w => .jumpV0 (fieldNNN w)) :=
  decodesExactly_of_matches fun _ hw => decodeWord_of_op_B (fieldOp_of_and_F000 hw)

theorem decodesExactly_rnd : DecodesExactly (0xC000, 0xF000) (fun w => .rnd (fieldX w) (fieldNN w)) :=
  decodesExactly_of_matches fun _ hw => decodeWord_of_op_C (fieldOp_of_and_F000 hw)

theorem decodesExactly_draw : DecodesExactly (0xD000, 0xF000) (fun w => .draw (fieldX w) (fieldY w) (fieldN w)) :=
  decodesExactly_of_matches fun _ hw => decodeWord_of_op_D (fieldOp_of_and_F000 hw)

theorem decodesExactly_orReg : DecodesExactly (0x8001, 0xF00F) (fun w => .orReg (fieldX w) (fieldY w)) :=
  decodesExactly_of_group8 rfl fun w (hn : (fieldN w).val = 0x1) => by simp only [decodeGroup8, hn]

theorem decodesExactly_andReg : DecodesExactly (0x8002, 0xF00F) (fun w => .andReg (fieldX w) (fieldY w)) :=
  decodesExactly_of_group8 rfl fun w (hn : (fieldN w).val = 0x2) => by simp only [decodeGroup8, hn]

theorem decodesExactly_xorReg : DecodesExactly (0x8003, 0xF00F) (fun w => .xorReg (fieldX w) (fieldY w)) :=
  decodesExactly_of_group8 rfl fun w (hn : (fieldN w).val = 0x3) => by simp only [decodeGroup8, hn]

theorem decodesExactly_subnReg : DecodesExactly (0x8007, 0xF00F) (fun w => .subnReg (fieldX w) (fieldY w)) :=
  decodesExactly_of_group8 rfl fun w (hn : (fieldN w).val = 0x7) => by simp only [decodeGroup8, hn]

/-- A row of group E decodes exactly to what the group's decoder answers on the row's low byte. -/
theorem decodesExactly_of_groupE {m : Word} {f : Word → Instr} (hm : m.toNat / 4096 = 0xE)
    (h : ∀ w : Word, (fieldNN w).toNat = m.toNat % 4096 → decodeGroupE w = some (f w)) : DecodesExactly (m, 0xF0FF) f :=
  decodesExactly_of_matches fun w hw =>
    (decodeWord_of_op_E ((fieldOp_of_and_F0FF hw).trans hm)).trans (h w (fieldNN_of_and_F0FF hw))

/-- A row of group F decodes exactly to what the group's decoder answers on the row's low byte. -/
theorem decodesExactly_of_groupF {m : Word} {f : Word → Instr} (hm : m.toNat / 4096 = 0xF)
    (h : ∀ w : Word, (fieldNN w).toNat = m.toNat % 4096 → decodeGroupF w = some (f w)) : DecodesExactly (m, 0xF0FF) f :=
  decodesExactly_of_matches fun w hw =>
    (decodeWord_of_op_F ((fieldOp_of_and_F0FF hw).trans hm)).trans (h w (fieldNN_of_and_F0FF hw))

theorem decodesExactly_skp : DecodesExactly (0xE09E, 0xF0FF) (fun w => .skp (fieldX w)) :=
  decodesExactly_of_groupE rfl fun w (hn : (fieldNN w).toNat = 0x9E) => by simp only [decodeGroupE, hn]

theorem decodesExactly_sknp : DecodesExactly (0xE0A1, 0xF0FF) (fun w => .sknp (fieldX w)) :=
  decodesExactly_of_groupE rfl fun w (hn : (fieldNN w).toNat = 0xA1) => by simp only [decodeGroupE, hn]

theorem decodesExactly_getDt : DecodesExactly (0xF007, 0xF0FF) (fun w => .getDt (fieldX w)) :=
  decodesExactly_of_groupF rfl fun w (hn : (fieldNN w).toNat = 0x07) => by simp only [decodeGroupF, hn]

theorem decodesExactly_waitKey : DecodesExactly (0xF00A, 0xF0FF) (fun w => .waitKey (fieldX w)) :=
  decodesExactly_of_groupF rfl fun w (hn : (fieldNN w).toNat = 0x0A) => by simp only [decodeGroupF, hn]

theorem decodesExactly_setDt : DecodesExactly (0xF015, 0xF0FF) (fun w => .setDt (fieldX w)) :=
  decodesExactly_of_groupF rfl fun w (hn : (fieldNN w).toNat = 0x15) => by simp only [decodeGroupF, hn]

theorem decodesExactly_setSt : DecodesExactly (0xF018, 0xF0FF) (fun w => .setSt (fieldX w)) :=
  decodesExactly_of_groupF rfl fun w (hn : (fieldNN w).toNat = 0x18) => by simp only [decodeGroupF, hn]

theorem decodesExactly_addI : DecodesExactly (0xF01E, 0xF0FF) (fun w => .addI (fieldX w)) :=
  decodesExactly_of_groupF rfl fun w (hn : (fieldNN w).toNat = 0x1E) => by simp only [decodeGroupF, hn]

theorem decodesExactly_glyph : DecodesExactly (0xF029, 0xF0FF) (fun w => .glyph (fieldX w)) :=
  decodesExactly_of_groupF rfl fun w (hn : (fieldNN w).toNat = 0x29) => by simp only [decodeGroupF, hn]

theorem decodesExactly_bcd : DecodesExactly (0xF033, 0xF0FF) (fun w => .bcd (fieldX w)) :=
  decodesExactly_of_groupF rfl fun w (hn : (fieldNN w).toNat = 0x33) => by simp only [decodeGroupF, hn]

theorem decodesExactly_store : DecodesExactly (0xF055, 0xF0FF) (fun w => .store (fieldX w)) :=
  decodesExactly_of_groupF rfl fun w (hn : (fieldNN w).toNat = 0x55) => by simp only [decodeGroupF, hn]

theorem decodesExactly_load : DecodesExactly (0xF065, 0xF0FF) (fun w => .load (fieldX w)) :=
  decodesExactly_of_groupF rfl fun w (hn : (fieldNN w).toNat = 0x65) => by simp only [decodeGroupF, hn]

/-! ## The opcode map as a whole (R75, R76, R80) -/

/-- `f` decodes a row: exactly its words decode to what `f` reads off them, and that is an instruction of the row. -/
def DecodesRow (p : Pattern) (f : Word → Instr) : Prop := DecodesExactly p f ∧ ∀ w, (f w).pattern = p

/-- Every row of R76 has its decoding. -/
theorem exists_decodesRow : ∀ p ∈ opcodeMap, ∃ f, DecodesRow p f := by
  simp only [opcodeMap, List.cons_append, List.nil_append, List.forall_mem_cons]
  exact ⟨⟨_, decodesExactly_cls, fun _ => rfl⟩, ⟨_, decodesExactly_ret, fun _ => rfl⟩,
    ⟨_, decodesExactly_jump, fun _ => rfl⟩, ⟨_, decodesExactly_call, fun _ => rfl⟩,
    ⟨_, decodesExactly_seImm, fun _ => rfl⟩, ⟨_, decodesExactly_sneImm, fun _ => rfl⟩,
    ⟨_, decodesExactly_seReg, fun _ => rfl⟩, ⟨_, decodesExactly_ldImm, fun _ => rfl⟩,
    ⟨_, decodesExactly_addImm, fun _ => rfl⟩, ⟨_, decodesExactly_mov, fun _ => rfl⟩,
    ⟨_, decodesExactly_orReg, fun _ => rfl⟩, ⟨_, decodesExactly_andReg, fun _ => rfl⟩,
    ⟨_, decodesExactly_xorReg, fun _ => rfl⟩, ⟨_, decodesExactly_addReg, fun _ => rfl⟩,
    ⟨_, decodesExactly_subReg, fun _ => rfl⟩, ⟨_, decodesExactly_shr, fun _ => rfl⟩,
    ⟨_, decodesExactly_subnReg, fun _ => rfl⟩, ⟨_, decodesExactly_shl, fun _ => rfl⟩,
    ⟨_, decodesExactly_sneReg, fun _ => rfl⟩, ⟨_, decodesExactly_ldI, fun _ => rfl⟩,
    ⟨_, decodesExactly_jumpV0, fun _ => rfl⟩, ⟨_, decodesExactly_rnd, fun _ => rfl⟩,
    ⟨_, decodesExactly_draw, fun _ => rfl⟩, ⟨_, decodesExactly_skp, fun _ => rfl⟩,
    ⟨_, decodesExactly_sknp, fun _ => rfl⟩, ⟨_, decodesExactly_getDt, fun _ => rfl⟩,
    ⟨_, decodesExactly_waitKey, fun _ => rfl⟩, ⟨_, decodesExactly_setDt, fun _ => rfl⟩,
    ⟨_, decodesExactly_setSt, fun _ => rfl⟩, ⟨_, decodesExactly_addI, fun _ => rfl⟩,
    ⟨_, decodesExactly_glyph, fun _ => rfl⟩, ⟨_, decodesExactly_bcd, fun _ => rfl⟩,
    ⟨_, decodesExactly_store, fun _ => rfl⟩, ⟨_, decodesExactly_load, fun _ => rfl⟩, List.forall_mem_nil _⟩

/-- A word that matches a row decodes to an instruction of that row. -/
theorem exists_decodeWord_of_matches {p : Pattern} (hp : p ∈ opcodeMap) {w : Word} (hw : w &&& p.2 = p.1) :
    ∃ i, decodeWord w = some i ∧ i.pattern = p := by
  obtain ⟨f, hd, hf⟩ := exists_decodesRow p hp
  exact ⟨f w, (hd w).1 hw, hf w⟩

theorem pattern_mem_opcodeMap (i : Instr) : i.pattern ∈ opcodeMap := by
  cases i <;> simp only [Instr.pattern] <;> decide

/-- Settles O3: a word that matches a row decodes, and a word that decodes matches the row of its instruction. -/
theorem decodingIsTheOpcodeMap : Obligations.DecodingIsTheOpcodeMap := by
  unfold Obligations.DecodingIsTheOpcodeMap
  refine fun w => ⟨⟨fun hnone p hp hw => ?_, fun hno => ?_⟩,
    fun i hi => ⟨pattern_mem_opcodeMap i, matches_of_decodeWord hi⟩⟩
  · obtain ⟨i, hi, -⟩ := exists_decodeWord_of_matches hp hw
    rw [hnone] at hi
    cases hi
  · refine Option.eq_none_iff_forall_ne_some.2 fun i hi => ?_
    exact hno i.pattern (pattern_mem_opcodeMap i) (matches_of_decodeWord hi)

/-- Settles O4: the row a word matches is that of the one instruction the word decodes to. -/
theorem atMostOneRowMatches : Obligations.AtMostOneRowMatches := by
  unfold Obligations.AtMostOneRowMatches
  refine ⟨rfl, fun w p hp q hq hwp hwq => ?_⟩
  obtain ⟨i, hi, rfl⟩ := exists_decodeWord_of_matches hp hwp
  obtain ⟨j, hj, rfl⟩ := exists_decodeWord_of_matches hq hwq
  rw [Option.some.inj (hi.symm.trans hj)]

/-- Settles O5, by evaluating the decoder on each of the listed words. -/
theorem workedExampleWordsDecode : Obligations.WorkedExampleWordsDecode := by
  unfold Obligations.WorkedExampleWordsDecode
  decide

end Sys2Proof.Machine

/-! ## The kinds of step (R90, R239), each by what the core is in -/

namespace Sys2Proof.Machine

theorem step_of_faulted {s : State} {r : FaultRecord} (hs : s.status = .faulted r) : step s = .next (s.finish none) := by
  simp only [step, hs, State.faultedStep]

theorem step_of_waiting {s : State} {x : Reg} (hs : s.status = .running) (hw : s.wait = some x) :
    step s = .next ((s.awaitKey x).finish none) := by
  simp only [step, hs, hw, State.awaitKeyStep]

theorem step_of_fetch_error {s : State} {f : Fault} (hr : s.Ready) (hf : s.fetch = .error f) :
    step s = .next ((s.raise none f).finish none) := by
  simp only [step, hr.1, hr.2, hf, State.fetchFaultStep]

theorem step_of_unknown {s : State} {w : Word} (hr : s.Ready) (hf : s.fetch = .ok w) (hd : decodeWord w = none) :
    step s = .next (s.advance.finish (some { pc := s.pc, word := w })) := by
  simp only [step, hr.1, hr.2, hf, hd, State.unknownStep]

/-- Settles O8: each kind of step answers a next state, and every state is in for one of them. -/
theorem everyStepAnswersNext : Obligations.EveryStepAnswersNext := by
  unfold Obligations.EveryStepAnswersNext
  intro s
  cases hs : s.status with
  | faulted r => exact ⟨_, step_of_faulted hs⟩
  | running =>
    cases hw : s.wait with
    | some x => exact ⟨_, step_of_waiting hs hw⟩
    | none =>
      cases hf : s.fetch with
      | error f => exact ⟨_, step_of_fetch_error ⟨hs, hw⟩ hf⟩
      | ok w =>
        cases hd : decodeWord w with
        | none => exact ⟨_, step_of_unknown ⟨hs, hw⟩ hf hd⟩
        | some i => exact ⟨_, step_of_runs ⟨⟨hs, hw⟩, w, hf, hd⟩ (exec_eq i s)⟩

/-- Settles O6: the step of a core that runs `i` is `i`'s effect and the end of a step, and `i` answers a next state. -/
theorem stepRunsDecodedInstruction : Obligations.StepRunsDecodedInstruction := by
  unfold Obligations.StepRunsDecodedInstruction
  intro s w i hr hf hd
  rw [step_of_runs ⟨hr, w, hf, hd⟩ (exec_eq i s), exec_eq i s]

/-! ## The end of a step (R11, R90, R92) -/

/-- The three ends of a step: Completed after the timer step, Waiting, or Faulted. -/
theorem State.finish_cases (s : State) (w : Option DecodeWarning) :
    (s.Ready ∧ s.finish w = s.timerStep.emit (some .completed) s.timerStepBeeps w) ∨
    (s.status = .running ∧ s.wait.isSome ∧ s.finish w = s.emit (some .waiting) false none) ∨
    (∃ r, s.status = .faulted r ∧ s.finish w = s.emit (some (.faulted r.fault.code)) false none) := by
  cases hs : s.status with
  | faulted r => exact .inr (.inr ⟨r, rfl, s.finish_faulted w r hs⟩)
  | running =>
    cases hw : s.wait with
    | some x => exact .inr (.inl ⟨rfl, rfl, s.finish_waiting w x hs hw⟩)
    | none => exact .inl ⟨⟨hs, hw⟩, s.finish_ready w ⟨hs, hw⟩⟩

/-- The end of a step leaves the core Ready or not as it was. -/
theorem State.ready_finish (s : State) (w : Option DecodeWarning) : (s.finish w).Ready ↔ s.Ready := by
  simp only [State.Ready, State.finish_status, State.finish_wait]

/-- The end of a step that does not complete only emits, and neither a beep nor a warning. -/
theorem finish_of_not_ready {s : State} (h : ¬ s.Ready) (w : Option DecodeWarning) :
    ∃ r, s.finish w = s.emit r false none := by
  obtain ⟨hr, -⟩ | ⟨-, -, he⟩ | ⟨r, -, he⟩ := s.finish_cases w
  · exact absurd hr h
  · exact ⟨_, he⟩
  · exact ⟨_, he⟩

theorem changesOnly_finish_of_not_ready {s : State} (h : ¬ s.Ready) (w : Option DecodeWarning) :
    ChangesOnly s (s.finish w) fun p => p = .out := by
  obtain ⟨r, he⟩ := finish_of_not_ready h w
  exact he ▸ changesOnly_emit s r false none

theorem finish_ready_warning {s : State} (h : s.Ready) (w : Option DecodeWarning) : (s.finish w).out.warning = w := by
  rw [State.finish_ready s w h, State.emit_out]

/-- In External mode a step that ends Ready leaves both timers alone. -/
theorem finish_ready_timers_external {s : State} (h : s.Ready) (w : Option DecodeWarning)
    (hc : s.cfg.tickSource = .external) : (s.finish w).dt = s.dt ∧ (s.finish w).st = s.st := by
  rw [State.finish_ready s w h, State.timerStep_external s hc]
  exact ⟨rfl, rfl⟩

theorem State.timerStepBeeps_iff (s : State) :
    s.timerStepBeeps = true ↔ s.cfg.tickSource = .perCycle ∧ s.st.toNat = 1 := by
  unfold State.timerStepBeeps
  cases s.cfg.tickSource with
  | perCycle => simp [State.tickBeeps_iff]
  | external => simp

/-- The end of a step beeps exactly when it completes and its own timer step beeps (R212). -/
theorem State.finish_beep_iff (s : State) (w : Option DecodeWarning) :
    (s.finish w).out.beep = true ↔
      s.cfg.tickSource = .perCycle ∧ (s.finish w).out.result = some .completed ∧ s.st.toNat = 1 := by
  obtain ⟨-, he⟩ | ⟨-, -, he⟩ | ⟨r, -, he⟩ := s.finish_cases w
  · rw [he, State.emit_out, State.timerStepBeeps_iff]; simp
  · rw [he, State.emit_out]; simp
  · rw [he, State.emit_out]; simp

theorem finish_ready_beep_iff {s : State} (h : s.Ready) (w : Option DecodeWarning) :
    (s.finish w).out.beep = true ↔ s.cfg.tickSource = .perCycle ∧ s.st.toNat = 1 := by
  rw [State.finish_beep_iff, finish_ready_result h w]; simp

/-- In External mode no step beeps. -/
theorem finish_beep_external {s : State} (w : Option DecodeWarning) (hc : s.cfg.tickSource = .external) :
    (s.finish w).out.beep = false := by
  rw [← Bool.not_eq_true, State.finish_beep_iff, hc]; simp

theorem exec_cfg {i : Instr} {s t : State} (h : exec i s = .next t) : t.cfg = s.cfg := by
  obtain ⟨f, -, rfl⟩ | ⟨-, rfl⟩ := exec_cases h
  · rfl
  · exact effect_cfg s i

/-- Settles O7: the step adds to the instruction's effect the end of a step, which ticks only where it completes. -/
theorem completedStepTicksTimersOnce : Obligations.CompletedStepTicksTimersOnce := by
  unfold Obligations.CompletedStepTicksTimersOnce
  intro s u i hrun hu
  rw [← exec_cfg hu]
  refine ⟨_, step_of_runs hrun hu, fun hr => ?_, fun hr => ?_⟩
  · refine ⟨finish_ready_result hr none, finish_ready_warning hr none, fun hc => ?_, fun hc => ?_,
      changesOnly_finish u none⟩
    · obtain ⟨hdt, hst⟩ := finish_ready_timers hr none hc
      exact ⟨hdt, hst, (finish_ready_beep_iff hr none).trans (and_iff_right hc)⟩
    · obtain ⟨hdt, hst⟩ := finish_ready_timers_external hr none hc
      exact ⟨hdt, hst, finish_beep_external none hc⟩
  · obtain ⟨r, he⟩ := finish_of_not_ready hr none
    rw [he]
    exact ⟨rfl, rfl, changesOnly_emit u r false none⟩

/-- Every step ends in the end of a step. -/
theorem exists_finish_of_step {s t : State} (h : step s = .next t) :
    ∃ (u : State) (w : Option DecodeWarning), t = u.finish w := by
  obtain ⟨_, _, rfl⟩ | ⟨_, _, _, rfl⟩ | ⟨_, _, _, rfl⟩ | ⟨_, _, _, _, rfl⟩ | ⟨_, _, _, _, _, _, _, rfl⟩ := step_cases h
  all_goals exact ⟨_, _, rfl⟩

/-- Settles O9: the three ends of a step are the three statuses. -/
theorem stepReturnsOneStatus : Obligations.StepReturnsOneStatus := by
  unfold Obligations.StepReturnsOneStatus
  intro s t h
  obtain ⟨u, w, rfl⟩ := exists_finish_of_step h
  rw [State.ready_finish, State.finish_status, State.finish_wait]
  obtain ⟨hr, -⟩ | ⟨hs, hw, he⟩ | ⟨r, hs, he⟩ := u.finish_cases w
  · exact .inl ⟨hr, finish_ready_result hr w⟩
  · exact .inr (.inl ⟨hs, hw, by rw [he, State.emit_out]⟩)
  · exact .inr (.inr ⟨r, hs, by rw [he, State.emit_out]⟩)

/-! ## Fetch, unknown words and the Faulted core (R71, R80, R243) -/

theorem State.not_ready_raise (s : State) (w : Option Word) (f : Fault) : ¬ (s.raise w f).Ready := by
  rintro ⟨hs, -⟩
  cases hs

/-- Settles O10: fetch reads both bytes where both exist, and otherwise the step takes the fault of the lowest address that
does not. -/
theorem fetchReadsWordOrFaults : Obligations.FetchReadsWordOrFaults := by
  unfold Obligations.FetchReadsWordOrFaults
  refine fun s => ⟨fun h => ⟨_, s.fetch_ok h, toNat_wordOfBytes _ _⟩, fun h hr => ?_⟩
  refine ⟨_, step_of_fetch_error hr (s.fetch_error h), State.finish_status _ _, ?_, ?_⟩
  · rw [State.finish_faulted _ _ _ rfl]; rfl
  · obtain ⟨-, hframe⟩ := took_raise s none (.indexOutOfRange (max s.pc.toNat 0x1000))
    exact (hframe.mono fun _ => .inl).trans
      ((changesOnly_finish_of_not_ready (s.not_ready_raise _ _) none).mono fun _ => .inr)

/-- Settles O11: the step is the advance of PC and the end of a step that carries the warning. -/
theorem unknownWordIsNoOpWithWarning : Obligations.UnknownWordIsNoOpWithWarning := by
  unfold Obligations.UnknownWordIsNoOpWithWarning
  intro s w hr hf hd
  have hready : s.advance.Ready := hr
  refine ⟨_, step_of_unknown hr hf hd, State.finish_pc _ _, finish_ready_result hready _, finish_ready_warning hready _,
    finish_ready_timers hready _, finish_ready_timers_external hready _, ?_⟩
  exact ((changesOnly_advance s).mono fun _ => .inl).trans ((changesOnly_finish _ _).mono fun _ => .inr)

/-- Settles O12: the step is the end of a step alone, which only emits. -/
theorem faultedCoreStaysFaulted : Obligations.FaultedCoreStaysFaulted := by
  unfold Obligations.FaultedCoreStaysFaulted
  intro s r hs
  refine ⟨_, step_of_faulted hs, ?_, ?_⟩
  · rw [s.finish_faulted none r hs, State.emit_out]
  · rw [s.finish_faulted none r hs]; exact changesOnly_emit s _ _ _

/-! ## The awaiting-key step (R204, R208) -/

theorem State.awaitKey_of_some {s : State} {k : Reg} (h : s.lowestKey = some k) (x : Reg) :
    s.awaitKey x = ((s.setReg x (BitVec.ofNat 8 k.val)).setWait none).advance := by
  simp only [State.awaitKey, h]

theorem State.awaitKey_of_none {s : State} (h : s.lowestKey = none) (x : Reg) : s.awaitKey x = s := by
  simp only [State.awaitKey, h]

/-- A key index is a byte. -/
theorem toNat_byteOfKey (k : Reg) : (BitVec.ofNat 8 k.val).toNat = k.val := by
  rw [BitVec.toNat_ofNat]
  omega

theorem changesOnly_setWait (s : State) (w : Option Reg) : ChangesOnly s (s.setWait w) fun p => p = .wait := by
  intro p hp
  cases p
  case wait => exact absurd rfl hp
  all_goals rfl

theorem changesOnly_awaitKey (s : State) (x : Reg) :
    ChangesOnly s (s.awaitKey x) fun p => p = .v x ∨ p = .wait ∨ p = .pc := by
  cases hk : s.lowestKey with
  | none => rw [State.awaitKey_of_none hk]; exact ChangesOnly.refl s _
  | some k =>
    rw [State.awaitKey_of_some hk]
    exact (((changesOnly_setReg s x _).mono (by tauto)).trans ((changesOnly_setWait _ none).mono (by tauto))).trans
      ((changesOnly_advance _).mono (by tauto))

/-- Settles O13: the poll stores the lowest key and leaves the core Ready, so the step ticks, or leaves it waiting. -/
theorem awaitingKeyStepPolls : Obligations.AwaitingKeyStepPolls := by
  unfold Obligations.AwaitingKeyStepPolls
  refine fun s x hs hw => ⟨fun k hk hmin => ?_, fun hnone => ?_⟩
  · have hstep := step_of_waiting hs hw
    have hframe := changesOnly_awaitKey s x
    rw [State.awaitKey_of_some ((s.lowestKey_eq_some k).2 ⟨hk, hmin⟩)] at hstep hframe
    have hready : ((s.setReg x (BitVec.ofNat 8 k.val)).setWait none).advance.Ready := ⟨hs, rfl⟩
    refine ⟨_, hstep, ?_, State.finish_wait _ _, State.finish_pc _ _, finish_ready_result hready _,
      finish_ready_timers hready _, finish_ready_timers_external hready _,
      (hframe.mono (by tauto)).trans ((changesOnly_finish _ none).mono (by tauto))⟩
    rw [State.reg_congr _ _ (State.finish_v _ none), State.reg_advance, State.reg_setWait, State.reg_setReg, if_pos rfl,
      toNat_byteOfKey]
  · have hstep := step_of_waiting hs hw
    rw [State.awaitKey_of_none ((s.lowestKey_eq_none).2 hnone), s.finish_waiting none x hs hw] at hstep
    exact ⟨_, hstep, rfl, changesOnly_emit s _ _ _⟩

/-! ## Faults of instructions (R230 to R237) -/

/-- Settles O21: the condition decides between taking the fault and the instruction's own effect, which leaves STATUS
alone. -/
theorem instructionsFaultExactlyOnTheirCondition : Obligations.InstructionsFaultExactlyOnTheirCondition := by
  unfold Obligations.InstructionsFaultExactlyOnTheirCondition
  refine ⟨fun s i => ⟨_, exec_eq i s, fun f hf => ?_, fun hf => ?_⟩, rfl, rfl, rfl, rfl, fun _ => ⟨rfl, rfl⟩,
    fun _ => ⟨rfl, rfl⟩⟩
  · rw [hf]; exact took_raise s (some (encode i)) f
  · rw [hf]; exact effect_status s i

/-- A step that takes a fault writes STATUS and the outputs alone. -/
theorem changesOnly_raise_finish (s : State) (w : Option Word) (f : Fault) :
    ChangesOnly s ((s.raise w f).finish none) fun p => p = .status ∨ p = .out :=
  ((took_raise s w f).2.mono fun _ => .inl).trans
    ((changesOnly_finish_of_not_ready (s.not_ready_raise w f) none).mono fun _ => .inr)

@[simp] theorem State.awaitKey_status (s : State) (x : Reg) : (s.awaitKey x).status = s.status :=
  changesOnly_awaitKey s x .status (by simp)

/-- A step of a running core that ends Faulted raised its fault in the fetch, or in the instruction whose encoding was
fetched. -/
theorem raise_of_step_faulted {s t : State} {r : FaultRecord} (hs : s.status = .running) (h : step s = .next t)
    (ht : t.status = .faulted r) :
    (∃ f, s.fetch = .error f ∧ t = (s.raise none f).finish none) ∨
      ∃ w f, s.fetch = .ok w ∧ t = (s.raise (some w) f).finish none := by
  obtain ⟨_, hf, -⟩ | ⟨x, -, -, rfl⟩ | ⟨f, -, hf, rfl⟩ | ⟨w, -, -, -, rfl⟩ | ⟨w, i, u, -, hf, hd, hu, rfl⟩ := step_cases h
  · rw [hs] at hf; cases hf
  · rw [State.finish_status, State.awaitKey_status, hs] at ht; cases ht
  · exact .inl ⟨f, hf, rfl⟩
  · rw [State.finish_status, State.advance_status, hs] at ht; cases ht
  · obtain ⟨f, -, rfl⟩ | ⟨-, rfl⟩ := exec_cases hu
    · exact .inr ⟨w, f, hf, by rw [encode_of_decodeWord hd]⟩
    · rw [State.finish_status, effect_status, hs] at ht; cases ht

/-- Settles O20: the step took its fault before any write, and its record holds PC and what was fetched. -/
theorem faultsArePrecise : Obligations.FaultsArePrecise := by
  unfold Obligations.FaultsArePrecise
  intro s t r hs h ht
  obtain ⟨f, hf, rfl⟩ | ⟨w, f, hf, rfl⟩ := raise_of_step_faulted hs h ht
  · cases (State.finish_status _ _).symm.trans ht
    exact ⟨changesOnly_raise_finish s none f, rfl, by simp [hf], by simp [hf]⟩
  · cases (State.finish_status _ _).symm.trans ht
    exact ⟨changesOnly_raise_finish s (some w) f, rfl, by simp [hf], by simp [hf]⟩

end Sys2Proof.Machine

/-! ## What each instruction and each step may write, part by part -/

namespace Sys2Proof.Machine

/-- Two updates in a row change what the one or the other changes. -/
theorem ChangesOnly.andThen {s t u : State} {P Q : Part → Prop} (h1 : ChangesOnly s t P) (h2 : ChangesOnly t u Q) :
    ChangesOnly s u fun p => P p ∨ Q p :=
  (h1.mono fun _ => .inl).trans (h2.mono fun _ => .inr)

theorem changesOnly_skipIf (s : State) (c : Bool) : ChangesOnly s (s.skipIf c) fun p => p = .pc := by
  rw [State.skipIf_eq]
  exact changesOnly_setPc s _

theorem changesOnly_setDelay (s : State) (b : Byte) : ChangesOnly s (s.setDelay b) fun p => p = .dt := by
  intro p hp
  cases p
  case dt => exact absurd rfl hp
  all_goals rfl

theorem changesOnly_setSound (s : State) (b : Byte) : ChangesOnly s (s.setSound b) fun p => p = .st := by
  intro p hp
  cases p
  case st => exact absurd rfl hp
  all_goals rfl

theorem changesOnly_consumeRnd (s : State) : ChangesOnly s s.consumeRnd fun p => p = .draws := by
  intro p hp
  cases p
  case draws => exact absurd rfl hp
  all_goals rfl

theorem changesOnly_popPc (s : State) : ChangesOnly s s.popPc fun p => p = .sp ∨ p = .pc := by
  intro p hp
  cases p
  case sp => exact absurd (.inl rfl) hp
  case pc => exact absurd (.inr rfl) hp
  all_goals rfl

/-- A push writes the entry that SP names, and SP. -/
theorem changesOnly_push (s : State) (w : Word) :
    ChangesOnly s (s.push w) fun p => (∃ j : Fin 16, s.sp.val = j.val ∧ p = .stack j) ∨ p = .sp := by
  unfold State.push
  split_ifs with hsp
  · intro p hp
    cases p
    case stack j => exact Vector.getElem_set_ne hsp j.isLt fun hj => hp (.inl ⟨j, hj, rfl⟩)
    case sp => exact absurd (.inr rfl) hp
    all_goals rfl
  · exact ChangesOnly.refl s _

theorem changesOnly_setBytes (s : State) (a : Nat) (bs : List Byte) :
    ChangesOnly s (s.setBytes a bs) fun p => ∃ k < bs.length, p = .mem (a + k) := by
  intro p hp
  cases p
  case mem c =>
    refine State.byteAt_setBytes_of_outside s a bs c ?_
    by_contra hc
    exact hp ⟨c - a, by omega, by rw [Nat.add_sub_cancel' (by omega)]⟩
  all_goals simp [Part.same, State.reg]

theorem changesOnly_setRegs (s : State) (x : Nat) (bs : List Byte) :
    ChangesOnly s (s.setRegs x bs) fun p => ∃ k : Reg, (x ≤ k.val ∧ k.val - x < bs.length) ∧ p = .v k := by
  intro p hp
  cases p
  case v k => exact (s.reg_setRegs x bs k).trans (dif_neg fun hk => hp ⟨k, hk, rfl⟩)
  all_goals simp [Part.same, State.byteAt]

/-- The parts an instruction may write when it runs in `s` (R21, R24, R27, R34, R184 to R186). -/
def Writes (s : State) : Instr → Part → Prop
  | .cls, p => (p = .fb ∨ p = .redraw) ∨ p = .pc
  | .ret, p => p = .sp ∨ p = .pc
  | .call _, p => ((∃ j : Fin 16, s.sp.val = j.val ∧ p = .stack j) ∨ p = .sp) ∨ p = .pc
  | .jump _, p | .jumpV0 _, p | .seImm _ _, p | .sneImm _ _, p | .seReg _ _, p | .sneReg _ _, p | .skp _, p
  | .sknp _, p => p = .pc
  | .ldImm x _, p | .addImm x _, p | .mov x _, p | .orReg x _, p | .andReg x _, p | .xorReg x _, p
  | .getDt x, p => p = .v x ∨ p = .pc
  | .addReg x _, p | .subReg x _, p | .shr x _, p | .subnReg x _, p | .shl x _, p => (p = .v x ∨ p = .v regF) ∨ p = .pc
  | .rnd x _, p => (p = .draws ∨ p = .v x) ∨ p = .pc
  | .ldI _, p | .addI _, p | .glyph _, p => p = .i ∨ p = .pc
  | .draw _ _ _, p => ((p = .fb ∨ p = .redraw) ∨ p = .v regF) ∨ p = .pc
  | .waitKey x, p => (p = .v x ∨ p = .pc) ∨ p = .wait
  | .setDt _, p => p = .dt ∨ p = .pc
  | .setSt _, p => p = .st ∨ p = .pc
  | .bcd _, p => (∃ k < 3, p = .mem (s.ea + k)) ∨ p = .pc
  | .store x, p => (∃ k < x.val + 1, p = .mem (s.ea + k)) ∨ p = .pc
  | .load x, p => (∃ k ≤ x, p = .v k) ∨ p = .pc

theorem changesOnly_effect_waitKey (s : State) (x : Reg) :
    ChangesOnly s (effect s (.waitKey x)) (Writes s (.waitKey x)) := by
  simp only [effect]
  split
  · exact ((changesOnly_setReg s x _).andThen (changesOnly_advance _)).mono fun _ => .inl
  · exact (changesOnly_setWait s (some x)).mono fun _ => .inr

/-- An instruction's own effect writes its parts alone: each is a row of updates and, mostly, the advance. -/
theorem changesOnly_effect (s : State) (i : Instr) : ChangesOnly s (effect s i) (Writes s i) := by
  cases i
  case cls => exact (changesOnly_show s _).andThen (changesOnly_advance _)
  case ret => exact changesOnly_popPc s
  case call nnn => exact (changesOnly_push s _).andThen (changesOnly_setPc _ _)
  case jump nnn | jumpV0 nnn => exact changesOnly_setPc s _
  case seImm x nn | sneImm x nn => exact changesOnly_skipIf s _
  case seReg x y | sneReg x y => exact changesOnly_skipIf s _
  case skp x | sknp x => exact changesOnly_skipIf s _
  case ldImm x nn | addImm x nn => exact (changesOnly_setReg s x _).andThen (changesOnly_advance _)
  case mov x y | orReg x y | andReg x y | xorReg x y => exact (changesOnly_setReg s x _).andThen (changesOnly_advance _)
  case getDt x => exact (changesOnly_setReg s x _).andThen (changesOnly_advance _)
  case addReg x y | subReg x y | shr x y | subnReg x y | shl x y =>
    exact (changesOnly_setRegFlag s x _ _).andThen (changesOnly_advance _)
  case rnd x nn =>
    exact ((changesOnly_consumeRnd s).andThen (changesOnly_setReg _ x _)).andThen (changesOnly_advance _)
  case ldI nnn => exact (changesOnly_setI s _).andThen (changesOnly_advance _)
  case addI x | glyph x => exact (changesOnly_setI s _).andThen (changesOnly_advance _)
  case draw x y n => exact ((changesOnly_show s _).andThen (changesOnly_setReg _ regF _)).andThen (changesOnly_advance _)
  case waitKey x => exact changesOnly_effect_waitKey s x
  case setDt x => exact (changesOnly_setDelay s _).andThen (changesOnly_advance _)
  case setSt x => exact (changesOnly_setSound s _).andThen (changesOnly_advance _)
  case bcd x => exact (changesOnly_setBytes s s.ea (bcdDigits (s.reg x))).andThen (changesOnly_advance _)
  case store x =>
    have hbytes := changesOnly_setBytes s s.ea (s.regsUpTo x)
    rw [State.length_regsUpTo] at hbytes
    exact hbytes.andThen (changesOnly_advance _)
  case load x =>
    have hregs := changesOnly_setRegs s 0 (s.bytesAtI (x.val + 1))
    rw [State.length_bytesAtI] at hregs
    exact (hregs.mono fun p ⟨k, ⟨_, hk⟩, hp⟩ => ⟨k, Nat.lt_succ_iff.1 hk, hp⟩).andThen (changesOnly_advance _)

/-- An instruction writes its parts, or STATUS if it faults. -/
theorem changesOnly_exec {i : Instr} {s t : State} (h : exec i s = .next t) :
    ChangesOnly s t fun p => p = .status ∨ Writes s i p := by
  obtain ⟨f, -, rfl⟩ | ⟨-, rfl⟩ := exec_cases h
  · exact (took_raise s _ f).2.mono fun _ => .inl
  · exact (changesOnly_effect s i).mono fun _ => .inr

/-- The parts that the cycle itself may write around an instruction, and in a poll for a key. -/
def CyclePart (p : Part) : Prop :=
  p = .pc ∨ p = .status ∨ p = .wait ∨ p = .dt ∨ p = .st ∨ p = .out ∨ ∃ x, p = .v x

/-- A step writes the parts of the cycle, and those of the instruction that it runs without a fault. -/
theorem changesOnly_step {s t : State} (h : step s = .next t) :
    ChangesOnly s t fun p => CyclePart p ∨ ∃ i, s.Runs i ∧ s.raisedBy i = none ∧ Writes s i p := by
  obtain ⟨_, _, rfl⟩ | ⟨x, _, _, rfl⟩ | ⟨f, _, _, rfl⟩ | ⟨w, _, _, _, rfl⟩ | ⟨w, i, u, hr, hf, hd, hu, rfl⟩ := step_cases h
  · exact (changesOnly_finish s none).mono fun p hp => .inl (by unfold CyclePart; tauto)
  · refine ((changesOnly_awaitKey s x).andThen (changesOnly_finish _ none)).mono fun p hp => .inl ?_
    unfold CyclePart
    obtain (rfl | hp) | hp := hp
    · simp
    · tauto
    · tauto
  · exact (changesOnly_raise_finish s none f).mono fun p hp => .inl (by unfold CyclePart; tauto)
  · exact ((changesOnly_advance s).andThen (changesOnly_finish _ _)).mono fun p hp => .inl (by unfold CyclePart; tauto)
  · obtain ⟨f, -, rfl⟩ | ⟨hn, rfl⟩ := exec_cases hu
    · exact (changesOnly_raise_finish s _ f).mono fun p hp => .inl (by unfold CyclePart; tauto)
    · refine ((changesOnly_effect s i).andThen (changesOnly_finish _ none)).mono fun p hp => ?_
      obtain hp | hp := hp
      · exact .inr ⟨i, ⟨hr, w, hf, hd⟩, hn, hp⟩
      · exact .inl (by unfold CyclePart; tauto)

/-- A core fetches one word, so it runs one instruction. -/
theorem State.Runs.unique {s : State} {i j : Instr} (hi : s.Runs i) (hj : s.Runs j) : i = j := by
  obtain ⟨-, w, hf, hd⟩ := hi
  obtain ⟨-, w', hf', hd'⟩ := hj
  cases hf.symm.trans hf'
  exact Option.some.inj (hd.symm.trans hd')

/-- The state after the step of a core that runs `i` is the end of a step after `i`. -/
theorem eq_finish_of_step {s t u : State} {i : Instr} (hr : s.Runs i) (hu : exec i s = .next u) (h : step s = .next t) :
    t = u.finish none :=
  Host.Outcome.next.inj (h.symm.trans (step_of_runs hr hu))

/-- A part that is none of the cycle's keeps its value in a step whose instruction, if it takes effect, does not write it. -/
theorem same_of_step {s t : State} (h : step s = .next t) {p : Part} (hc : ¬ CyclePart p)
    (hw : ∀ i, s.Runs i → s.raisedBy i = none → ¬ Writes s i p) : Part.same s t p :=
  changesOnly_step h p fun hp => hp.elim hc fun ⟨i, hi, hn, hwi⟩ => hw i hi hn hwi

theorem exec_eq_effect {s : State} {i : Instr} (h : s.raisedBy i = none) : exec i s = .next (effect s i) := by
  rw [exec_eq, h, State.guarded_none]

theorem exec_eq_raise {s : State} {i : Instr} {f : Fault} (h : s.raisedBy i = some f) :
    exec i s = .next (s.raise (some (encode i)) f) := by
  rw [exec_eq, h, State.guarded_some]

/-! ## Which instructions write a part -/

theorem writes_fb_iff (s : State) (i : Instr) : Writes s i .fb ↔ i = .cls ∨ ∃ x y n, i = .draw x y n := by
  cases i <;> simp [Writes]

theorem writes_redraw_iff (s : State) (i : Instr) : Writes s i .redraw ↔ i = .cls ∨ ∃ x y n, i = .draw x y n := by
  cases i <;> simp [Writes]

theorem writes_sp_iff (s : State) (i : Instr) : Writes s i .sp ↔ i = .ret ∨ ∃ nnn, i = .call nnn := by
  cases i <;> simp [Writes]

theorem writes_stack_iff (s : State) (i : Instr) (j : Fin 16) :
    Writes s i (.stack j) ↔ s.sp.val = j.val ∧ ∃ nnn, i = .call nnn := by
  cases i <;> simp [Writes]

theorem writes_i_iff (s : State) (i : Instr) :
    Writes s i .i ↔ (∃ nnn, i = .ldI nnn) ∨ (∃ x, i = .addI x) ∨ ∃ x, i = .glyph x := by
  cases i <;> simp [Writes]

/-- The addresses of the `n` cells from `b` on. -/
theorem exists_mem_offset_iff (a b n : Nat) : (∃ k < n, Part.mem a = .mem (b + k)) ↔ b ≤ a ∧ a < b + n := by
  refine ⟨?_, fun h => ⟨a - b, by omega, by rw [Nat.add_sub_cancel' h.1]⟩⟩
  rintro ⟨k, hk, ⟨⟩⟩
  omega

theorem writes_mem_iff (s : State) (i : Instr) (a : Nat) :
    Writes s i (.mem a) ↔ (∃ x, i = .bcd x ∧ s.ea ≤ a ∧ a < s.ea + 3) ∨
      ∃ x, i = .store x ∧ s.ea ≤ a ∧ a < s.ea + (x.val + 1) := by
  cases i
  case bcd x => simpa [Writes] using exists_mem_offset_iff a s.ea 3
  case store x => simpa [Writes] using exists_mem_offset_iff a s.ea (x.val + 1)
  all_goals simp [Writes]

theorem writes_st_iff (s : State) (i : Instr) : Writes s i .st ↔ ∃ x, i = .setSt x := by
  cases i <;> simp [Writes]

theorem not_writes_keys (s : State) (i : Instr) : ¬ Writes s i .keys := by
  cases i <;> simp [Writes]

/-- VF is written as a flag or as a named destination (R21, R22). -/
theorem flagWriter_or_namesDest_of_writes_vf {s : State} {i : Instr} (h : Writes s i (.v regF)) :
    FlagWriter i ∨ NamesDest regF i := by
  cases i <;> simp_all [Writes, FlagWriter, NamesDest]

end Sys2Proof.Machine

/-! ## Calls and returns (R27, R121, R123) -/

namespace Sys2Proof.Machine

theorem exec_call_of_lt {s : State} (h : s.sp.val < 16) (nnn : BitVec 12) :
    exec (.call nnn) s = .next ((s.push (s.pc + 2)).setPc (zextAddr nnn)) :=
  exec_eq_effect (if_neg h.ne)

theorem exec_call_of_full {s : State} (h : s.sp.val = 16) (nnn : BitVec 12) :
    exec (.call nnn) s = .next (s.raise (some (encode (.call nnn))) .stackOverflow) :=
  exec_eq_raise (if_pos h)

theorem exec_ret_of_pos {s : State} (h : 0 < s.sp.val) : exec .ret s = .next s.popPc :=
  exec_eq_effect (if_neg h.ne')

theorem exec_ret_of_empty {s : State} (h : s.sp.val = 0) :
    exec .ret s = .next (s.raise (some (encode .ret)) .stackUnderflow) :=
  exec_eq_raise (if_pos h)

/-- A push on a stack that is not full raises SP by one. -/
theorem State.val_push_sp {s : State} (h : s.sp.val < 16) (w : Word) : (s.push w).sp.val = s.sp.val + 1 := by
  rw [State.push_eq s w h]

/-- The pushed word stands in the entry that SP named. -/
theorem State.getElem_push_stack {s : State} {j : Fin 16} (h : s.sp.val = j.val) (w : Word) :
    (s.push w).stack[j.val] = w := by
  rw [State.push_eq s w (h ▸ j.isLt)]
  simp [h]

/-- A return reads the entry below SP. -/
theorem State.popPc_pc_eq {s : State} {j : Fin 16} (h : s.sp.val = j.val + 1) : s.popPc.pc = s.stack[j.val] := by
  simp [h]

theorem State.val_popPc_sp (s : State) : s.popPc.sp.val = s.sp.val - 1 := rfl

/-- Settles O29: below SP = 16 the call is a push and a jump; at 16 it takes its fault. -/
theorem callPushesReturnAddress : Obligations.CallPushesReturnAddress := by
  unfold Obligations.CallPushesReturnAddress
  refine ⟨decodesExactly_call, fun s nnn => ⟨fun j hj => ?_, fun hfull => ?_⟩⟩
  · have hlt : s.sp.val < 16 := hj ▸ j.isLt
    refine ⟨_, exec_call_of_lt hlt nnn, State.getElem_push_stack hj _, (State.val_push_sp hlt _).trans (by rw [hj]),
      toNat_zextAddr nnn, (changesOnly_effect s (.call nnn)).mono ?_⟩
    rintro p ((⟨k, hk, rfl⟩ | hp) | hp)
    · exact .inl (congrArg Part.stack (Fin.ext (hk.symm.trans hj)))
    · exact .inr (.inl hp)
    · exact .inr (.inr hp)
  · exact ⟨_, exec_call_of_full hfull nnn, took_raise s _ _⟩

/-- Settles O27: above SP = 0 the return is a pop into PC, which the next fetch checks; at 0 it takes its fault. -/
theorem returnPopsProgramCounter : Obligations.ReturnPopsProgramCounter := by
  unfold Obligations.ReturnPopsProgramCounter
  refine ⟨decodesExactly_ret, fun s => ⟨fun j hj => ?_, fun hempty => ?_⟩⟩
  · have hpc := State.popPc_pc_eq hj
    refine ⟨_, exec_ret_of_pos (by omega), by rw [State.val_popPc_sp, hj, Nat.add_sub_cancel], hpc, fun hbad => ?_,
      changesOnly_popPc s⟩
    rw [← hpc] at hbad ⊢
    exact State.fetch_error _ hbad
  · exact ⟨_, exec_ret_of_empty hempty, took_raise s _ _⟩

/-- Settles O34: the return pops the entry that the call pushed. -/
theorem callThenReturnLandsAfterCall : Obligations.CallThenReturnLandsAfterCall := by
  unfold Obligations.CallThenReturnLandsAfterCall
  intro s t u nnn hlt ht hstack hsp
  cases (exec_call_of_lt hlt nnn).symm.trans ht
  have hu : u.sp.val = s.sp.val + 1 := (congrArg Fin.val hsp).trans (State.val_push_sp hlt _)
  refine ⟨_, exec_ret_of_pos (by omega), ?_, Fin.ext ?_⟩
  · rw [State.popPc_pc_eq (j := ⟨s.sp.val, hlt⟩) hu, hstack]
    exact State.getElem_push_stack (j := ⟨s.sp.val, hlt⟩) rfl _
  · rw [State.val_popPc_sp, hu, Nat.add_sub_cancel]

theorem stack_eq_of_step {s t : State} (h : step s = .next t) (hcall : ∀ nnn, ¬ s.Runs (.call nnn)) :
    t.stack = s.stack := by
  refine Vector.ext fun j hj => same_of_step h (p := .stack ⟨j, hj⟩) (by simp [CyclePart]) fun i hi _ hw => ?_
  obtain ⟨-, nnn, rfl⟩ := (writes_stack_iff s i _).1 hw
  exact hcall nnn hi

theorem sp_eq_of_step {s t : State} (h : step s = .next t) (hcall : ∀ nnn, ¬ s.Runs (.call nnn)) (hret : ¬ s.Runs .ret) :
    t.sp = s.sp := by
  refine same_of_step h (p := .sp) (by simp [CyclePart]) fun i hi _ hw => ?_
  obtain rfl | ⟨nnn, rfl⟩ := (writes_sp_iff s i).1 hw
  · exact hret hi
  · exact hcall nnn hi

/-- A step of a call: the push, or the fault with the stack as it was. -/
theorem stack_of_step_call {s t : State} {nnn : BitVec 12} (h : step s = .next t) (hr : s.Runs (.call nnn)) :
    (∀ j : Fin 16, s.sp.val = j.val → t.sp.val = j.val + 1 ∧ t.stack[j.val] = s.pc + 2 ∧
      ∀ k : Fin 16, k ≠ j → t.stack[k.val] = s.stack[k.val]) ∧
    (s.sp.val = 16 → t.sp = s.sp ∧ t.stack = s.stack ∧ ∃ r, t.status = .faulted r ∧ r.fault = .stackOverflow) := by
  refine ⟨fun j hj => ?_, fun hfull => ?_⟩
  · have hlt : s.sp.val < 16 := hj ▸ j.isLt
    obtain rfl := eq_finish_of_step hr (exec_call_of_lt hlt nnn) h
    simp only [State.finish_sp, State.finish_stack, State.setPc_sp, State.setPc_stack]
    refine ⟨by rw [State.val_push_sp hlt, hj], State.getElem_push_stack hj _, fun k hk => ?_⟩
    exact changesOnly_push s _ (.stack k) (by simpa [hj, Fin.val_inj] using hk)
  · obtain rfl := eq_finish_of_step hr (exec_call_of_full hfull nnn) h
    exact ⟨State.finish_sp _ _, State.finish_stack _ _, _, State.finish_status _ _, rfl⟩

/-- A step of a return: the pop, or the fault with SP and PC as they were. -/
theorem stack_of_step_ret {s t : State} (h : step s = .next t) (hr : s.Runs .ret) :
    (∀ j : Fin 16, s.sp.val = j.val + 1 → t.sp.val = j.val ∧ t.pc = s.stack[j.val]) ∧
    (s.sp.val = 0 → t.sp = s.sp ∧ t.pc = s.pc ∧ ∃ r, t.status = .faulted r ∧ r.fault = .stackUnderflow) := by
  refine ⟨fun j hj => ?_, fun hempty => ?_⟩
  · obtain rfl := eq_finish_of_step hr (exec_ret_of_pos (by omega)) h
    rw [State.finish_sp, State.finish_pc, State.val_popPc_sp, hj]
    exact ⟨Nat.add_sub_cancel .., State.popPc_pc_eq hj⟩
  · obtain rfl := eq_finish_of_step hr (exec_ret_of_empty hempty) h
    exact ⟨State.finish_sp _ _, State.finish_pc _ _, _, State.finish_status _ _, rfl⟩

/-- Settles O33: only a call writes an entry, only a call and a return write SP, and both do it as R27 says. -/
theorem stackChangesOnlyByCallAndReturn : Obligations.StackChangesOnlyByCallAndReturn := by
  unfold Obligations.StackChangesOnlyByCallAndReturn
  exact fun s t h => ⟨fun hcall => ⟨stack_eq_of_step h hcall, sp_eq_of_step h hcall⟩,
    fun _ hr => stack_of_step_call h hr, stack_of_step_ret h⟩

/-! ## Flags, memory and I (R22, R24, R50) -/

/-- Settles O42: what writes VF is a flag writer or names it. -/
theorem onlyFlagWritersChangeVfImplicitly : Obligations.OnlyFlagWritersChangeVfImplicitly := by
  unfold Obligations.OnlyFlagWritersChangeVfImplicitly
  intro i s t h hflag hdest
  refine changesOnly_exec h (.v regF) ?_
  rintro (hp | hw)
  · cases hp
  · exact (flagWriter_or_namesDest_of_writes_vf hw).elim hflag hdest

theorem le_of_raisedBy_bcd {s : State} {x : Reg} (h : s.raisedBy (.bcd x) = none) : s.ea + 2 ≤ 0xFFF := by
  simpa [State.raisedBy, State.ea] using h

theorem le_of_raisedBy_store {s : State} {x : Reg} (h : s.raisedBy (.store x) = none) : s.ea + x.val ≤ 0xFFF := by
  simpa [State.raisedBy, State.ea] using h

/-- Settles O50: a step that changes a byte, or I, runs an instruction that writes it. -/
theorem onlyStoresChangeMemoryAndIndexWritersI : Obligations.OnlyStoresChangeMemoryAndIndexWritersI := by
  unfold Obligations.OnlyStoresChangeMemoryAndIndexWritersI
  refine fun s t h => ⟨fun a hne => ?_, fun hne => ?_⟩
  · by_contra hno
    refine hne (same_of_step h (p := .mem a) (by simp [CyclePart]) fun i hi hn hw => hno ?_)
    obtain ⟨x, rfl, hlo, hhi⟩ | ⟨x, rfl, hlo, hhi⟩ := (writes_mem_iff s i a).1 hw
    · have := le_of_raisedBy_bcd hn
      exact .inl ⟨x, hi, hlo, by omega, by omega⟩
    · have := le_of_raisedBy_store hn
      exact .inr ⟨x, hi, hlo, by omega, by omega⟩
  · by_contra hno
    refine hne (same_of_step h (p := .i) (by simp [CyclePart]) fun i hi _ hw => hno ?_)
    obtain ⟨nnn, rfl⟩ | ⟨x, rfl⟩ | ⟨x, rfl⟩ := (writes_i_iff s i).1 hw
    · exact .inl ⟨nnn, hi⟩
    · exact .inr (.inl ⟨x, hi⟩)
    · exact .inr (.inr ⟨x, hi⟩)

/-! ## The sound timer that a step's tick meets (R206, R212) -/

/-- The state at the end of a step has the machine's tick source, and its ST is VX after an FX18 and as before otherwise. -/
theorem exists_finish_of_step_with_st {s t : State} (h : step s = .next t) :
    ∃ (u : State) (w : Option DecodeWarning), t = u.finish w ∧ u.cfg = s.cfg ∧
      (∀ x, s.Runs (.setSt x) → u.st = s.reg x) ∧ ((∀ x, ¬ s.Runs (.setSt x)) → u.st = s.st) := by
  by_cases hx : ∃ x, s.Runs (.setSt x)
  · obtain ⟨x, hx⟩ := hx
    refine ⟨_, none, eq_finish_of_step hx (exec_eq_effect rfl) h, rfl, fun y hy => ?_, fun hno => absurd hx (hno x)⟩
    cases hx.unique hy
    rfl
  · have hno : ∀ x, ¬ s.Runs (.setSt x) := not_exists.1 hx
    suffices ∃ (u : State) (w : Option DecodeWarning), t = u.finish w ∧ u.cfg = s.cfg ∧ u.st = s.st by
      obtain ⟨u, w, ht, hcfg, hst⟩ := this
      exact ⟨u, w, ht, hcfg, fun x hx => absurd hx (hno x), fun _ => hst⟩
    obtain ⟨_, -, rfl⟩ | ⟨x, -, -, rfl⟩ | ⟨f, -, -, rfl⟩ | ⟨w, -, -, -, rfl⟩ | ⟨w, i, u, hr, hf, hd, hu, rfl⟩ := step_cases h
    · exact ⟨s, _, rfl, rfl, rfl⟩
    · have hframe := changesOnly_awaitKey s x
      exact ⟨_, _, rfl, hframe .cfg (by simp), hframe .st (by simp)⟩
    · exact ⟨_, _, rfl, rfl, rfl⟩
    · exact ⟨_, _, rfl, rfl, rfl⟩
    · refine ⟨u, _, rfl, exec_cfg hu, changesOnly_exec hu .st ?_⟩
      rintro (hp | hw)
      · cases hp
      · obtain ⟨x, rfl⟩ := (writes_st_iff s i).1 hw
        exact hno x ⟨hr, w, hf, hd⟩

/-- Settles O15: a step beeps when it completes and its tick meets ST = 1. -/
theorem beepOnlyWhenTickReachesZero : Obligations.BeepOnlyWhenTickReachesZero := by
  unfold Obligations.BeepOnlyWhenTickReachesZero
  intro s t h
  obtain ⟨u, w, rfl, hcfg, hset, hkeep⟩ := exists_finish_of_step_with_st h
  rw [State.finish_beep_iff, hcfg]
  refine and_congr_right fun _ => and_congr_right fun _ => ?_
  by_cases hx : ∃ x, s.Runs (.setSt x)
  · obtain ⟨x, hx⟩ := hx
    rw [hset x hx]
    refine ⟨fun hone => ⟨fun y hy => ?_, fun hno => absurd hx (hno x)⟩, fun hone => hone.1 x hx⟩
    cases hx.unique hy
    exact hone
  · have hno : ∀ x, ¬ s.Runs (.setSt x) := not_exists.1 hx
    rw [hkeep hno]
    exact ⟨fun hone => ⟨fun x hx => absurd hx (hno x), fun _ => hone⟩, fun hone => hone.2 hno⟩

/-! ## DXYN, REDRAW, and what the host writes (R12, R35, R101, R215) -/

/-- Whether every byte of a sprite exists; N = 0 reads none (R101). -/
def State.SpriteExists (s : State) (n : Fin 16) : Prop := n.val = 0 ∨ s.i.toNat + n.val ≤ 0x1000

theorem exec_draw_of_exists {s : State} {n : Fin 16} (h : s.SpriteExists n) (x y : Reg) :
    exec (.draw x y n) s = .next
      ((s.show (s.drawSprite x y n.val).1).setReg regF (flagOf (s.drawSprite x y n.val).2)).advance :=
  exec_eq_effect (if_neg (by unfold State.SpriteExists at h; omega))

theorem exec_draw_of_not_exists {s : State} {n : Fin 16} (h : ¬ s.SpriteExists n) (x y : Reg) :
    exec (.draw x y n) s = .next
      (s.raise (some (encode (.draw x y n))) (.indexOutOfRange (max s.i.toNat 0x1000))) :=
  exec_eq_raise (if_pos (by unfold State.SpriteExists at h; omega))

/-- A step of DXYN: the sprite is drawn and STATUS stays, or the fault is taken and nothing is shown. -/
theorem step_draw_cases {s t : State} {x y : Reg} {n : Fin 16} (hr : s.Runs (.draw x y n)) (h : step s = .next t) :
    (t.status = .running ∧ t.redraw = true ∧ t.fb = (s.drawSprite x y n.val).1) ∨
    (t.status ≠ .running ∧ t.redraw = s.redraw ∧ t.fb = s.fb) := by
  by_cases hn : s.SpriteExists n
  · obtain rfl := eq_finish_of_step hr (exec_draw_of_exists hn x y) h
    exact .inl ⟨(State.finish_status _ _).trans hr.1.1, State.finish_redraw _ _, State.finish_fb _ _⟩
  · obtain rfl := eq_finish_of_step hr (exec_draw_of_not_exists hn x y) h
    refine .inr ⟨?_, State.finish_redraw _ _, State.finish_fb _ _⟩
    rw [State.finish_status, State.raise_status]
    exact Status.noConfusion

theorem changesOnly_clearRedraw (s : State) : ChangesOnly s s.clearRedraw fun p => p = .redraw := by
  intro p hp
  cases p
  case redraw => exact absurd rfl hp
  all_goals rfl

/-- Settles O26: only 00E0 and DXYN write the flag, and both show a framebuffer, which sets it. -/
theorem redrawIsSetByDrawingAndClearedByHost : Obligations.RedrawIsSetByDrawingAndClearedByHost := by
  unfold Obligations.RedrawIsSetByDrawingAndClearedByHost
  refine ⟨fun s t h => ⟨fun hcls hdraw => ?_, fun hr => ?_, fun x y n hr => ?_⟩,
    fun s => ⟨_, rfl, rfl, changesOnly_clearRedraw s⟩⟩
  · refine same_of_step h (p := .redraw) (by simp [CyclePart]) fun i hi _ hw => ?_
    obtain rfl | ⟨x, y, n, rfl⟩ := (writes_redraw_iff s i).1 hw
    · exact hcls hi
    · exact hdraw x y n hi
  · obtain rfl := eq_finish_of_step hr (exec_cls s) h
    exact State.finish_redraw _ _
  · obtain ⟨hs, hset, -⟩ | ⟨hs, hkeep, -⟩ := step_draw_cases hr h
    · exact ⟨fun _ => hset, fun hne => absurd hs hne⟩
    · exact ⟨fun he => absurd he hs, fun _ => hkeep⟩

theorem changesOnly_setKeys (s : State) (k : Vector Bool 16) : ChangesOnly s (s.setKeys k) fun p => p = .keys := by
  intro p hp
  cases p
  case keys => exact absurd rfl hp
  all_goals rfl

/-- A load that succeeds writes the image from 0x200 on. -/
theorem loadImage_eq_ok {s t : State} {image : List Byte} (h : s.loadImage image = .ok t) :
    image.length ≤ 3584 ∧ t = s.setBytes 0x200 image := by
  unfold State.loadImage at h
  split_ifs at h with hlen
  cases h
  exact ⟨of_decide_eq_true hlen, rfl⟩

/-- The host's tick writes the timers and the outputs alone. -/
theorem changesOnly_timerTick (s : State) : ChangesOnly s s.timerTick fun p => (p = .dt ∨ p = .st) ∨ p = .out := by
  unfold State.timerTick
  split
  · exact (changesOnly_tick s).andThen (changesOnly_emit _ _ _ _)
  · exact (changesOnly_emit s _ _ _).mono fun _ => .inr

/-- The parts that each host action may write, any part for a reset (R12). -/
def HostWrites : HostAction → Part → Prop
  | .reinit, _ => True
  | .loadImage image, p => ∃ k < image.length, p = .mem (0x200 + k)
  | .setKeys _, p => p = .keys
  | .clearRedraw, p => p = .redraw
  | .timerTick, p => (p = .dt ∨ p = .st) ∨ p = .out

theorem changesOnly_act {s t : State} {a : HostAction} (h : s.act a = .ok t) : ChangesOnly s t (HostWrites a) := by
  cases a with
  | reinit => exact fun _ hp => absurd trivial hp
  | loadImage image =>
    obtain ⟨-, rfl⟩ := loadImage_eq_ok h
    exact changesOnly_setBytes s 0x200 image
  | setKeys k => cases h; exact changesOnly_setKeys s k
  | clearRedraw => cases h; exact changesOnly_clearRedraw s
  | timerTick => cases h; exact changesOnly_timerTick s

theorem hostWrites_keys_iff (a : HostAction) : HostWrites a .keys ↔ a = .reinit ∨ ∃ k, a = .setKeys k := by
  cases a <;> simp [HostWrites]

theorem hostWrites_fb_iff (a : HostAction) : HostWrites a .fb ↔ a = .reinit := by
  cases a <;> simp [HostWrites]

/-- Settles O55: no instruction writes the latch, and the host writes it by `set_keys` and by a reset alone. -/
theorem inputLatchIsWrittenByHostAlone : Obligations.InputLatchIsWrittenByHostAlone := by
  unfold Obligations.InputLatchIsWrittenByHostAlone
  refine ⟨fun s t h => ?_, fun s k => ⟨_, rfl, fun _ => rfl, changesOnly_setKeys s k⟩, fun s t a hinit hset h => ?_⟩
  · exact same_of_step h (p := .keys) (by simp [CyclePart]) fun i _ _ => not_writes_keys s i
  · refine changesOnly_act h .keys fun hw => ?_
    obtain rfl | ⟨k, rfl⟩ := (hostWrites_keys_iff a).1 hw
    · exact hinit rfl
    · exact hset k rfl

end Sys2Proof.Machine

/-! ## The canonical memory (log entry 8) -/

namespace Sys2Proof.Machine

/-- A canonical memory that lists a cell reads there as something else than the reset content. -/
theorem Memory.read_head_ne_background {font : Font} {c : Host.Cell} {m : Memory} (h : Memory.wf font (c :: m)) :
    Memory.read font (c :: m) c.1 ≠ background font c.1 := by
  rw [Memory.read, if_pos rfl]
  exact (h.2 c (List.mem_cons_self ..)).2

/-- Canonical memories that read alike list their first cell at the same address: the lower one would read as its reset
content in the other. -/
theorem Memory.head_le_of_read_alike {font : Font} {c d : Host.Cell} {m m' : Memory} (h : Memory.wf font (c :: m))
    (h' : Memory.wf font (d :: m')) (hread : ∀ a, Memory.read font (c :: m) a = Memory.read font (d :: m') a) :
    d.1 ≤ c.1 := by
  by_contra hlt
  refine Memory.read_head_ne_background h ((hread c.1).trans (Memory.read_of_below font _ _ fun e he => ?_))
  obtain rfl | he := List.mem_cons.1 he
  · omega
  · have := (List.pairwise_cons.1 h'.1).1 e he
    omega

theorem Memory.wf_tail {font : Font} {c : Host.Cell} {m : Memory} (h : Memory.wf font (c :: m)) : Memory.wf font m :=
  ⟨(List.pairwise_cons.1 h.1).2, fun e he => h.2 e (List.mem_cons_of_mem c he)⟩

/-- The tail of a canonical memory reads as the memory does, but for the first cell's own address. -/
theorem Memory.read_tail {font : Font} {c : Host.Cell} {m : Memory} (h : Memory.wf font (c :: m)) (a : Nat) :
    Memory.read font m a = if a = c.1 then background font a else Memory.read font (c :: m) a := by
  rw [Memory.read]
  split_ifs with ha
  · exact Memory.read_of_below font m a fun e he => ha ▸ (List.pairwise_cons.1 h.1).1 e he
  · rfl

theorem Memory.eq_of_read_alike {font : Font} {m m' : Memory} (h : Memory.wf font m) (h' : Memory.wf font m')
    (hread : ∀ a, Memory.read font m a = Memory.read font m' a) : m = m' := by
  induction m generalizing m' with
  | nil =>
    cases m' with
    | nil => rfl
    | cons d m' => exact absurd (hread d.1).symm (Memory.read_head_ne_background h')
  | cons c m ih =>
    cases m' with
    | nil => exact absurd (hread c.1) (Memory.read_head_ne_background h)
    | cons d m' =>
      have haddr : c.1 = d.1 :=
        le_antisymm (Memory.head_le_of_read_alike h' h fun a => (hread a).symm) (Memory.head_le_of_read_alike h h' hread)
      have hbyte : c.2 = d.2 := by simpa [Memory.read, haddr] using hread c.1
      have htail : m = m' := ih (Memory.wf_tail h) (Memory.wf_tail h') fun a => by
        rw [Memory.read_tail h, Memory.read_tail h', haddr, hread]
      rw [Prod.ext haddr hbyte, htail]

/-- Settles O19, by induction on the list: the first cells stand at one address with one byte, and the tails read alike. -/
theorem canonicalMemoriesReadAlikeAreEqual : Obligations.CanonicalMemoriesReadAlikeAreEqual := by
  unfold Obligations.CanonicalMemoriesReadAlikeAreEqual
  exact fun font m m' => Memory.eq_of_read_alike

/-! ## The invariant (R26, R36, R232) -/

/-- The invariant speaks of no other part than these. -/
theorem State.Inv.congr {s t : State} (h : s.Inv) (hcfg : t.cfg = s.cfg) (hmem : t.mem = s.mem) (hpc : t.pc = s.pc)
    (hsp : t.sp = s.sp) (hstack : t.stack = s.stack) (hwait : t.wait = s.wait) (hstatus : t.status = s.status) : t.Inv where
  memory := by rw [hcfg, hmem]; exact h.memory
  pc := by rw [hpc]; exact h.pc
  live := by rw [hsp, hstack]; exact h.live
  waiting := by rw [hwait, hstatus, hpc]; exact h.waiting
  faulted := by rw [hstatus, hpc]; exact h.faulted

theorem State.Inv.finish {s : State} (h : s.Inv) (w : Option DecodeWarning) : (s.finish w).Inv :=
  h.congr (s.finish_cfg w) (s.finish_mem w) (s.finish_pc w) (s.finish_sp w) (s.finish_stack w) (s.finish_wait w)
    (s.finish_status w)

/-- For a running core the invariant asks nothing of a fault record. -/
theorem inv_of_running {s : State} (hs : s.status = .running) (memory : Memory.wf s.cfg.fontRom s.mem)
    (pc : s.pc.toNat ≤ 0x10FE) (live : ∀ j : Fin 16, j.val < s.sp.val → s.stack[j.val].toNat ≤ 0x1000)
    (waiting : s.wait.isSome → s.pc.toNat ≤ 0xFFE) : s.Inv :=
  ⟨memory, pc, live, fun hw => ⟨hs, waiting hw⟩, fun r hr => by rw [hs] at hr; cases hr⟩

/-- Taking a fault that the rules can produce keeps the invariant. -/
theorem State.Inv.raise {s : State} (h : s.Inv) (hr : s.Ready) {w : Option Word} {f : Fault}
    (hwf : FaultRecord.wf { fault := f, pc := s.pc, word := w }) : (s.raise w f).Inv where
  memory := h.memory
  pc := h.pc
  live := h.live
  waiting := by rw [State.raise_wait, hr.2]; rintro ⟨⟩
  faulted := by rintro _ ⟨⟩; exact ⟨rfl, hwf⟩

/-- From an address that can be fetched PC + 2 and PC + 4 do not wrap (R26). -/
theorem toNat_pc_add {pc : Word} (h : pc.toNat ≤ 0xFFE) {k : Word} (hk : k.toNat ≤ 4) :
    (pc + k).toNat = pc.toNat + k.toNat := by
  rw [BitVec.toNat_add]
  omega

theorem toNat_advance_pc_le {s : State} (h : s.pc.toNat ≤ 0xFFE) : s.advance.pc.toNat ≤ 0x1000 := by
  rw [State.advance_pc, toNat_pc_add h (by decide)]
  exact Nat.add_le_add_right h 2

theorem State.Inv.advance {s : State} (h : s.Inv) (hr : s.Ready) (hpc : s.pc.toNat ≤ 0xFFE) : s.advance.Inv :=
  inv_of_running hr.1 h.memory ((toNat_advance_pc_le hpc).trans (by decide)) h.live (by
    rw [State.advance_wait, hr.2]; rintro ⟨⟩)

/-- A poll stores a key and moves PC past an FX0A that was fetched, or leaves the core waiting. -/
theorem State.Inv.awaitKey {s : State} (h : s.Inv) {x : Reg} (hw : s.wait = some x) : (s.awaitKey x).Inv := by
  cases hk : s.lowestKey with
  | none => rw [State.awaitKey_of_none hk]; exact h
  | some k =>
    rw [State.awaitKey_of_some hk]
    obtain ⟨hs, hpc⟩ := h.waiting (by rw [hw]; rfl)
    exact inv_of_running hs h.memory ((toNat_advance_pc_le hpc).trans (by decide)) h.live (by rintro ⟨⟩)

/-- A word is fetched only where both its bytes exist. -/
theorem pc_le_of_fetch_ok {s : State} {w : Word} (h : s.fetch = .ok w) : s.pc.toNat ≤ 0xFFE := by
  by_contra hpc
  rw [State.fetch_error s (Nat.lt_of_not_le hpc)] at h
  cases h

/-- The record of a fetch fault is legal (R232). -/
theorem wf_record_of_fetch_error {s : State} {f : Fault} (h : s.fetch = .error f) :
    FaultRecord.wf { fault := f, pc := s.pc, word := none } := by
  by_cases hpc : s.pc.toNat ≤ 0xFFE
  · rw [State.fetch_ok s hpc] at h
    cases h
  · rw [State.fetch_error s (Nat.lt_of_not_le hpc)] at h
    cases h
    exact ⟨Nat.lt_of_not_le hpc, rfl⟩

/-- The record of an instruction's fault is legal: its word decodes to the instruction, which raises that fault (R232). -/
theorem wf_record_of_raisedBy {s : State} {i : Instr} {f : Fault} (h : s.raisedBy i = some f) (pc : Word) :
    FaultRecord.wf { fault := f, pc := pc, word := some (encode i) } := by
  cases i
  case call nnn | ret | draw x y n | bcd x | store x | load x | skp x | sknp x =>
    simp only [State.raisedBy, Option.ite_none_right_eq_some, Option.some.injEq] at h
    obtain ⟨hc, rfl⟩ := h
    simp [FaultRecord.wf, decodeWord_encode, hc]
  all_goals cases h

@[simp] theorem State.push_mem (s : State) (w : Word) : (s.push w).mem = s.mem := by
  unfold State.push; split_ifs <;> rfl

theorem effect_waitKey_of_some {s : State} {k : Reg} (h : s.lowestKey = some k) (x : Reg) :
    effect s (.waitKey x) = (s.setReg x (BitVec.ofNat 8 k.val)).advance := by
  simp only [effect, h]

theorem effect_waitKey_of_none {s : State} (h : s.lowestKey = none) (x : Reg) :
    effect s (.waitKey x) = s.setWait (some x) := by
  simp only [effect, h]

/-- Only FX33 and FX55 touch the data that holds memory. -/
theorem effect_mem (s : State) {i : Instr} (hbcd : ∀ x, i ≠ .bcd x) (hstore : ∀ x, i ≠ .store x) :
    (effect s i).mem = s.mem := by
  cases i
  case bcd x => exact absurd rfl (hbcd x)
  case store x => exact absurd rfl (hstore x)
  case waitKey x => simp only [effect]; split <;> rfl
  all_goals simp [effect, State.setRegFlag, State.skipIf_eq]

/-- The bytes that a store writes exist where it raises no fault, so memory stays canonical. -/
theorem wf_effect {s : State} {i : Instr} (h : Memory.wf s.cfg.fontRom s.mem) (hn : s.raisedBy i = none) :
    Memory.wf (effect s i).cfg.fontRom (effect s i).mem := by
  rw [effect_cfg]
  cases i
  case bcd x =>
    have := le_of_raisedBy_bcd hn
    exact s.wf_setBytes s.ea (bcdDigits (s.reg x)) (by simp only [bcdDigits, List.length_cons, List.length_nil]; omega) h
  case store x =>
    have := le_of_raisedBy_store hn
    exact s.wf_setBytes s.ea (s.regsUpTo x) (by rw [State.length_regsUpTo]; omega) h
  all_goals
    rw [effect_mem s (by simp) (by simp)]
    exact h

/-- BNNN's sum needs no more than 13 bits, so it does not wrap (R26, R128). -/
theorem State.toNat_offsetTarget (s : State) (nnn : BitVec 12) :
    (s.offsetTarget nnn).toNat = nnn.toNat + (s.reg 0).toNat := by
  have hbyte : (zextByte (s.reg 0)).toNat = (s.reg 0).toNat := BitVec.toNat_setWidth_of_le (by decide)
  have := (s.reg 0).isLt
  rw [State.offsetTarget, BitVec.toNat_add, toNat_zextAddr, hbyte]
  omega

theorem pos_of_raisedBy_ret {s : State} (h : s.raisedBy .ret = none) : 0 < s.sp.val := by
  simpa [State.raisedBy, Nat.pos_iff_ne_zero] using h

theorem lt_of_raisedBy_call {s : State} {nnn : BitVec 12} (h : s.raisedBy (.call nnn) = none) : s.sp.val < 16 := by
  have : s.sp.val ≠ 16 := by simpa [State.raisedBy] using h
  omega

theorem toNat_skipIf_pc_le {s : State} (h : s.pc.toNat ≤ 0xFFE) (c : Bool) : (s.skipIf c).pc.toNat ≤ 0x10FE := by
  rw [State.skipIf_eq, State.setPc_pc]
  cases c
  · exact (toNat_advance_pc_le h).trans (by decide)
  · exact (toNat_pc_add h (by decide)).le.trans (by have : (4 : Word).toNat = 4 := rfl; omega)

/-- No instruction that was fetched takes PC above 0x10FE, BNNN's largest target (R26). -/
theorem toNat_effect_pc_le {s : State} (h : s.Inv) (hpc : s.pc.toNat ≤ 0xFFE) {i : Instr} (hn : s.raisedBy i = none) :
    (effect s i).pc.toNat ≤ 0x10FE := by
  have advance_le : ∀ t : State, t.pc = s.pc → t.advance.pc.toNat ≤ 0x10FE := fun t ht =>
    (toNat_advance_pc_le (by rw [ht]; exact hpc)).trans (by decide)
  cases i
  case jump nnn | call nnn =>
    have := nnn.isLt
    exact (toNat_zextAddr nnn).le.trans (by omega)
  case jumpV0 nnn =>
    have := nnn.isLt
    have := (s.reg 0).isLt
    exact (s.toNat_offsetTarget nnn).le.trans (by omega)
  case ret =>
    have hpos := pos_of_raisedBy_ret hn
    exact (h.live ⟨s.sp.val - 1, by omega⟩ (Nat.sub_one_lt_of_lt hpos)).trans (by decide)
  case seImm x nn | sneImm x nn => exact toNat_skipIf_pc_le hpc _
  case seReg x y | sneReg x y => exact toNat_skipIf_pc_le hpc _
  case skp x | sknp x => exact toNat_skipIf_pc_le hpc _
  case waitKey x =>
    cases hk : s.lowestKey with
    | some k => rw [effect_waitKey_of_some hk]; exact advance_le _ rfl
    | none => rw [effect_waitKey_of_none hk]; exact h.pc
  case bcd x | store x => exact advance_le _ (s.setBytes_pc _ _)
  case load x => exact advance_le _ (s.setRegs_pc _ _)
  all_goals exact advance_le _ rfl

theorem live_effect_of_ne {s : State} (h : s.Inv) {i : Instr} (hcall : ∀ nnn, i ≠ .call nnn) (hret : i ≠ .ret) (j : Fin 16)
    (hj : j.val < (effect s i).sp.val) : (effect s i).stack[j.val].toNat ≤ 0x1000 := by
  have hsp : (effect s i).sp = s.sp := changesOnly_effect s i .sp (by simp [writes_sp_iff, hcall, hret])
  have hstack : (effect s i).stack[j.val] = s.stack[j.val] :=
    changesOnly_effect s i (.stack j) (by simp [writes_stack_iff, hcall])
  rw [hstack]
  exact h.live j (hsp ▸ hj)

/-- Every live return address can be fetched or is the 0x1000 that a call at 0xFFE pushes (R26, R123). -/
theorem live_effect {s : State} (h : s.Inv) (hpc : s.pc.toNat ≤ 0xFFE) {i : Instr} (hn : s.raisedBy i = none) (j : Fin 16)
    (hj : j.val < (effect s i).sp.val) : (effect s i).stack[j.val].toNat ≤ 0x1000 := by
  cases i
  case ret => exact h.live j (Nat.lt_of_lt_of_le hj (Nat.sub_le ..))
  case call nnn =>
    by_cases hjs : s.sp.val = j.val
    · exact (congrArg BitVec.toNat (State.getElem_push_stack hjs (s.pc + 2))).le.trans (toNat_advance_pc_le hpc)
    · have hkeep : (s.push (s.pc + 2)).stack[j.val] = s.stack[j.val] := changesOnly_push s _ (.stack j) (by simp [hjs])
      have hlt : j.val < s.sp.val + 1 := State.val_push_sp (lt_of_raisedBy_call hn) (s.pc + 2) ▸ hj
      exact (congrArg BitVec.toNat hkeep).le.trans (h.live j (by omega))
  all_goals exact live_effect_of_ne h (by simp) (by simp) j hj

theorem writes_wait_iff (s : State) (i : Instr) : Writes s i .wait ↔ ∃ x, i = .waitKey x := by
  cases i <;> simp [Writes]

/-- A Ready core comes to wait by an FX0A alone, which leaves PC where it was fetched (R204). -/
theorem effect_pc_of_wait {s : State} (hr : s.Ready) {i : Instr} (hw : (effect s i).wait.isSome) :
    (effect s i).pc = s.pc := by
  by_cases hi : ∃ x, i = .waitKey x
  · obtain ⟨x, rfl⟩ := hi
    cases hk : s.lowestKey with
    | none => rw [effect_waitKey_of_none hk, State.setWait_pc]
    | some k =>
      rw [effect_waitKey_of_some hk, State.advance_wait, State.setReg_wait, hr.2] at hw
      cases hw
  · have hkeep : (effect s i).wait = s.wait := changesOnly_effect s i .wait (by rwa [writes_wait_iff])
    rw [hkeep, hr.2] at hw
    cases hw

theorem State.Inv.effect {s : State} (h : s.Inv) (hr : s.Ready) (hpc : s.pc.toNat ≤ 0xFFE) {i : Instr}
    (hn : s.raisedBy i = none) : (effect s i).Inv :=
  inv_of_running ((effect_status s i).trans hr.1) (wf_effect h.memory hn) (toNat_effect_pc_le h hpc hn)
    (live_effect h hpc hn) fun hw => by rw [effect_pc_of_wait hr hw]; exact hpc

theorem State.Inv.exec {s u : State} (h : s.Inv) (hr : s.Ready) (hpc : s.pc.toNat ≤ 0xFFE) {i : Instr}
    (hu : exec i s = .next u) : u.Inv := by
  obtain ⟨f, hf, rfl⟩ | ⟨hn, rfl⟩ := exec_cases hu
  · exact h.raise hr (wf_record_of_raisedBy hf s.pc)
  · exact h.effect hr hpc hn

/-- Settles O17: each kind of step keeps the invariant, and so does the end of a step. -/
theorem everyStepKeepsInvariant : Obligations.EveryStepKeepsInvariant := by
  unfold Obligations.EveryStepKeepsInvariant
  intro s t h ht
  obtain ⟨_, _, rfl⟩ | ⟨x, _, hw, rfl⟩ | ⟨f, hr, hf, rfl⟩ | ⟨w, hr, hf, _, rfl⟩ | ⟨w, i, u, hr, hf, _, hu, rfl⟩ :=
    step_cases ht
  · exact h.finish none
  · exact (h.awaitKey hw).finish none
  · exact (h.raise hr (wf_record_of_fetch_error hf)).finish none
  · exact (h.advance hr (pc_le_of_fetch_ok hf)).finish _
  · exact (h.exec hr (pc_le_of_fetch_ok hf) hu).finish none

theorem inv_initial (c : Config) : (State.initial c).Inv :=
  inv_of_running rfl (Memory.wf_nil _) (by decide : (0x200 : Word).toNat ≤ 0x10FE)
    (fun _ hj => absurd hj (Nat.not_lt_zero _)) (by rintro ⟨⟩)

/-- Settles O16: memory lists nothing, PC is 0x200, the stack is empty, and the core runs and does not wait. -/
theorem invariantHoldsAtReset : Obligations.InvariantHoldsAtReset := by
  unfold Obligations.InvariantHoldsAtReset
  exact ⟨inv_initial, inv_initial _⟩

/-- An image that fits lies in the address space, so a load keeps memory canonical (R60). -/
theorem State.Inv.loadImage {s : State} (h : s.Inv) {image : List Byte} (hlen : image.length ≤ 3584) :
    (s.setBytes 0x200 image).Inv where
  memory := by rw [State.setBytes_cfg]; exact s.wf_setBytes 0x200 image (by omega) h.memory
  pc := by rw [State.setBytes_pc]; exact h.pc
  live := by rw [State.setBytes_sp, State.setBytes_stack]; exact h.live
  waiting := by rw [State.setBytes_wait, State.setBytes_status, State.setBytes_pc]; exact h.waiting
  faulted := by rw [State.setBytes_status, State.setBytes_pc]; exact h.faulted

theorem State.Inv.timerTick {s : State} (h : s.Inv) : s.timerTick.Inv := by
  unfold State.timerTick
  split <;> exact h.congr rfl rfl rfl rfl rfl rfl rfl

/-- Settles O18: a reset makes it, `load` keeps it, and the other actions write no part that it speaks of. -/
theorem hostActionsKeepInvariant : Obligations.HostActionsKeepInvariant := by
  unfold Obligations.HostActionsKeepInvariant
  intro s t a h ht
  cases a with
  | reinit => cases ht; exact (inv_initial s.cfg).congr rfl rfl rfl rfl rfl rfl rfl
  | loadImage image =>
    obtain ⟨hlen, rfl⟩ := loadImage_eq_ok ht
    exact h.loadImage hlen
  | setKeys k => cases ht; exact h.congr rfl rfl rfl rfl rfl rfl rfl
  | clearRedraw => cases ht; exact h.congr rfl rfl rfl rfl rfl rfl rfl
  | timerTick => cases ht; exact h.timerTick

end Sys2Proof.Machine

/-! ## ST has no effect but the beep (R30, R210) -/

namespace Sys2Proof.Machine

/-- The core with another ST and another emitted beep. -/
def State.withSound (s : State) (a : Byte) (b : Bool) : State := { s with st := a, out := { s.out with beep := b } }

theorem State.alikeButSound_withSound (s : State) (a : Byte) (b : Bool) : s.AlikeButSound (s.withSound a b) := rfl

theorem State.AlikeButSound.exists_withSound {s t : State} (h : s.AlikeButSound t) : ∃ a b, t = s.withSound a b :=
  ⟨t.st, t.out.beep, (State.alikeButSound_iff s t).1 h⟩

theorem setBytes_withSound (s : State) (a : Byte) (b : Bool) (base : Nat) (bs : List Byte) :
    (s.withSound a b).setBytes base bs = (s.setBytes base bs).withSound a b := by
  induction bs generalizing s base with
  | nil => rfl
  | cons c bs ih => exact ih (s.setByte base c) (base + 1)

theorem setRegs_withSound (s : State) (a : Byte) (b : Bool) (x : Nat) (bs : List Byte) :
    (s.withSound a b).setRegs x bs = (s.setRegs x bs).withSound a b := by
  induction bs generalizing s x with
  | nil => rfl
  | cons c bs ih =>
    rw [State.setRegs, State.setRegs]
    split_ifs with hx
    · exact ih (s.setReg ⟨x, hx⟩ c) (x + 1)
    · exact ih s (x + 1)

theorem push_withSound (s : State) (a : Byte) (b : Bool) (w : Word) :
    (s.withSound a b).push w = (s.push w).withSound a b := by
  unfold State.push
  split_ifs with h1 h2 h2
  · rfl
  · exact absurd h1 h2
  · exact absurd h2 h1
  · rfl

theorem skipIf_withSound (s : State) (a : Byte) (b : Bool) (c : Bool) :
    (s.withSound a b).skipIf c = (s.skipIf c).withSound a b := by
  cases c <;> rfl

theorem lowestKey_withSound (s : State) (a : Byte) (b : Bool) : (s.withSound a b).lowestKey = s.lowestKey := rfl

/-- No fault's condition reads ST. -/
theorem raisedBy_withSound (s : State) (a : Byte) (b : Bool) (i : Instr) :
    (s.withSound a b).raisedBy i = s.raisedBy i := by
  cases i <;> rfl

theorem effect_waitKey_withSound (s : State) (a : Byte) (b : Bool) (x : Reg) :
    effect (s.withSound a b) (.waitKey x) = (effect s (.waitKey x)).withSound a b := by
  cases hk : s.lowestKey with
  | some k => rw [effect_waitKey_of_some hk, effect_waitKey_of_some ((lowestKey_withSound s a b).trans hk)]; rfl
  | none => rw [effect_waitKey_of_none hk, effect_waitKey_of_none ((lowestKey_withSound s a b).trans hk)]; rfl

/-- No instruction reads ST, and all but FX18 carry it along: each does the same to both cores. -/
theorem effect_withSound (s : State) (a : Byte) (b : Bool) {i : Instr} (hset : ∀ x, i ≠ .setSt x) :
    effect (s.withSound a b) i = (effect s i).withSound a b := by
  cases i
  case setSt x => exact absurd rfl (hset x)
  case call nnn => exact congrArg (fun t => t.setPc (zextAddr nnn)) (push_withSound s a b (s.pc + 2))
  case bcd x => exact congrArg State.advance (setBytes_withSound s a b s.ea (bcdDigits (s.reg x)))
  case store x => exact congrArg State.advance (setBytes_withSound s a b s.ea (s.regsUpTo x))
  case load x => exact congrArg State.advance (setRegs_withSound s a b 0 (s.bytesAtI (x.val + 1)))
  case waitKey x => exact effect_waitKey_withSound s a b x
  case seImm x nn | sneImm x nn => exact skipIf_withSound s a b _
  case seReg x y | sneReg x y => exact skipIf_withSound s a b _
  case skp x | sknp x => exact skipIf_withSound s a b _
  all_goals rfl

theorem alike_effect (s : State) (a : Byte) (b : Bool) (i : Instr) :
    (effect s i).AlikeButSound (effect (s.withSound a b) i) := by
  by_cases hset : ∃ x, i = .setSt x
  · obtain ⟨x, rfl⟩ := hset
    rfl
  · rw [effect_withSound s a b (not_exists.1 hset)]
    exact State.alikeButSound_withSound _ a b

theorem alike_awaitKey (s : State) (a : Byte) (b : Bool) (x : Reg) :
    (s.awaitKey x).AlikeButSound ((s.withSound a b).awaitKey x) := by
  cases hk : s.lowestKey with
  | some k => rw [State.awaitKey_of_some hk, State.awaitKey_of_some ((lowestKey_withSound s a b).trans hk)]; rfl
  | none => rw [State.awaitKey_of_none hk, State.awaitKey_of_none ((lowestKey_withSound s a b).trans hk)]; rfl

/-- The timer step and the outputs differ in ST and the beep alone. -/
theorem alike_finish {s t : State} (h : s.AlikeButSound t) (w : Option DecodeWarning) :
    (s.finish w).AlikeButSound (t.finish w) := by
  obtain ⟨a, b, rfl⟩ := h.exists_withSound
  obtain ⟨hr, he⟩ | ⟨hs, hw, he⟩ | ⟨r, hs, he⟩ := s.finish_cases w
  · rw [he, (s.withSound a b).finish_ready w hr]
    cases hc : s.cfg.tickSource with
    | perCycle =>
      rw [s.timerStep_perCycle hc, (s.withSound a b).timerStep_perCycle hc]
      rfl
    | external =>
      rw [s.timerStep_external hc, (s.withSound a b).timerStep_external hc]
      rfl
  · obtain ⟨x, hx⟩ := Option.isSome_iff_exists.1 hw
    rw [he, (s.withSound a b).finish_waiting w x hs hx]
    rfl
  · rw [he, (s.withSound a b).finish_faulted w r hs]
    rfl

/-- An instruction runs from both cores alike, with the same fault or none. -/
theorem exists_alike_exec {s u : State} {i : Instr} (a : Byte) (b : Bool) (h : exec i s = .next u) :
    ∃ v, exec i (s.withSound a b) = .next v ∧ u.AlikeButSound v := by
  refine ⟨_, exec_eq i _, ?_⟩
  rw [raisedBy_withSound]
  obtain ⟨f, hf, rfl⟩ | ⟨hn, rfl⟩ := exec_cases h
  · rw [hf]; rfl
  · rw [hn]; exact alike_effect s a b i

/-- Settles O56: both cores are in for the same kind of step, and each part of it keeps them alike. -/
theorem soundTimerIsUnobservable : Obligations.SoundTimerIsUnobservable := by
  unfold Obligations.SoundTimerIsUnobservable
  intro s t u h hu
  obtain ⟨a, b, rfl⟩ := h.exists_withSound
  obtain ⟨r, hs, rfl⟩ | ⟨x, hs, hw, rfl⟩ | ⟨f, hr, hf, rfl⟩ | ⟨w, hr, hf, hd, rfl⟩ | ⟨w, i, u', hr, hf, hd, hu', rfl⟩ :=
    step_cases hu
  · exact ⟨_, step_of_faulted hs, alike_finish h none⟩
  · exact ⟨_, step_of_waiting hs hw, alike_finish (alike_awaitKey s a b x) none⟩
  · exact ⟨_, step_of_fetch_error hr hf, alike_finish ((s.raise none f).alikeButSound_withSound a b) none⟩
  · exact ⟨_, step_of_unknown hr hf hd, alike_finish (s.advance.alikeButSound_withSound a b) _⟩
  · obtain ⟨v, hv, halike⟩ := exists_alike_exec a b hu'
    exact ⟨_, step_of_runs ⟨hr, w, hf, hd⟩ hv, alike_finish halike none⟩

end Sys2Proof.Machine

/-! ## The sprite that DXYN draws (R101 to R104) -/

namespace Sys2Proof.Machine

theorem getElem?_bytesAtI (s : State) (n k : Nat) (row : Byte) :
    (s.bytesAtI n)[k]? = some row ↔ k < n ∧ s.byteAt (s.i.toNat + k) = row := by
  rw [List.getElem?_eq_some_iff]
  refine ⟨fun ⟨hk, hrow⟩ => ?_, fun ⟨hk, hrow⟩ => ?_⟩
  · have hk' : k < n := s.length_bytesAtI n ▸ hk
    exact ⟨hk', (s.getElem_bytesAtI n k hk').symm.trans hrow⟩
  · exact ⟨by rwa [s.length_bytesAtI], (s.getElem_bytesAtI n k hk).trans hrow⟩

/-- The rows that DXYN reads cover exactly the coordinates where the sprite has a 1 bit. -/
theorem covers_bytesAtI (s : State) (x y : Reg) (n px py : Nat) :
    Covers (s.reg x).toNat (s.reg y).toNat (s.bytesAtI n) px py ↔ s.SpriteBit x y n px py := by
  unfold Covers State.SpriteBit
  refine and_congr_right fun _ => and_congr_right fun _ => and_congr_right fun hy => ?_
  simp only [getElem?_bytesAtI]
  refine ⟨?_, fun ⟨hn, hbit⟩ => ⟨_, ⟨by omega, rfl⟩, hbit⟩⟩
  rintro ⟨row, ⟨hn, rfl⟩, hbit⟩
  exact ⟨by omega, hbit⟩

/-- Drawing XORs the sprite into the screen (R101, R103, R104). -/
theorem spriteXored_of_fb {s t : State} {x y : Reg} {n : Nat} (h : t.fb = (s.drawSprite x y n).1) :
    s.SpriteXored t x y n := by
  intro px py hx hy
  rw [State.pixel, h, State.drawSprite, pixel_drawRows _ _ _ _ hx hy, covers_bytesAtI]
  rfl

/-- Drawing collides where the sprite meets a pixel that was 1 (R103). -/
theorem collision_drawSprite (s : State) (x y : Reg) (n : Nat) :
    (s.drawSprite x y n).2 = true ↔ s.SpriteMeets x y n true := by
  rw [State.drawSprite, collision_drawRows]
  simp only [covers_bytesAtI, Bool.false_eq_true, false_or]
  rfl

theorem flagOf_eq_one_iff (c : Bool) : flagOf c = 1 ↔ c = true := by cases c <;> decide

/-- Settles O23: the drawn screen is the old one with the sprite XORed in, and the collision is written to VF last. -/
theorem drawXorsClippedSprite : Obligations.DrawXorsClippedSprite := by
  unfold Obligations.DrawXorsClippedSprite
  refine ⟨decodesExactly_draw, fun s x y n hn => ⟨_, exec_draw_of_exists hn x y, spriteXored_of_fb rfl, fun hmeets => ?_,
    fun hclear => ?_, rfl, rfl, (changesOnly_effect s (.draw x y n)).mono ?_⟩⟩
  · rw [State.reg_advance, State.reg_setReg, if_pos rfl, (collision_drawSprite s x y n.val).2 hmeets]
    rfl
  · rw [State.reg_advance, State.reg_setReg, if_pos rfl,
      Bool.eq_false_iff.2 fun hc => hclear ((collision_drawSprite s x y n.val).1 hc)]
    rfl
  · rintro p (((hp | hp) | hp) | hp) <;> simp [hp]

/-- After DXYN: the drawn screen and the collision flag, and memory and I as they were. -/
theorem exec_draw_spec {s t : State} {x y : Reg} {n : Fin 16} (hn : s.SpriteExists n)
    (h : exec (.draw x y n) s = .next t) :
    t.fb = (s.drawSprite x y n.val).1 ∧ t.reg regF = flagOf (s.drawSprite x y n.val).2 ∧ t.i = s.i ∧
      ∀ a, t.byteAt a = s.byteAt a := by
  cases (exec_draw_of_exists hn x y).symm.trans h
  exact ⟨rfl, (State.reg_setReg _ regF regF _).trans (if_pos rfl), rfl, fun _ => rfl⟩

/-- A state that still has what DXYN reads draws the same sprite. -/
theorem spriteBit_congr {s t : State} {x y : Reg} (hbyte : ∀ a, t.byteAt a = s.byteAt a) (hi : t.i = s.i)
    (hx : t.reg x = s.reg x) (hy : t.reg y = s.reg y) (n px py : Nat) :
    t.SpriteBit x y n px py ↔ s.SpriteBit x y n px py := by
  simp only [State.SpriteBit, hbyte, hi, hx, hy]

/-- XOR with the same bit twice is the identity. -/
theorem iff_not_iff_not (p b : Prop) : ((p ↔ ¬ b) ↔ ¬ b) ↔ p := by
  by_cases hb : b <;> simp [hb]

/-- Settles O24: the second draw XORs the same sprite again, and meets a 1 exactly where the first met a 0. -/
theorem drawingTwiceRestoresScreen : Obligations.DrawingTwiceRestoresScreen := by
  unfold Obligations.DrawingTwiceRestoresScreen
  intro s t u x y n hn ht hx hy hu
  obtain ⟨htfb, -, hti, htbyte⟩ := exec_draw_spec hn ht
  have hn' : t.SpriteExists n := by rwa [State.SpriteExists, hti]
  obtain ⟨hufb, huflag, -, -⟩ := exec_draw_spec hn' hu
  have bit := spriteBit_congr htbyte hti hx hy n.val
  refine ⟨Framebuffer.ext_pixel fun px py hpx hpy => Bool.eq_iff_iff.2 ?_, ?_⟩
  · have hfirst := spriteXored_of_fb htfb px py hpx hpy
    have hsecond := spriteXored_of_fb hufb px py hpx hpy
    rw [bit, hfirst] at hsecond
    exact hsecond.trans (iff_not_iff_not _ _)
  · rw [huflag, flagOf_eq_one_iff, collision_drawSprite]
    refine exists_congr fun px => exists_congr fun py => and_congr_right fun hpx => and_congr_right fun hpy => ?_
    rw [bit]
    refine and_congr_right fun hbit => ?_
    rw [spriteXored_of_fb htfb px py hpx hpy, ← Bool.not_eq_true]
    simp [hbit]

/-- Settles O25: only 00E0 and DXYN write the framebuffer, and each does what its own rule says. -/
theorem onlyClearAndDrawChangeFramebuffer : Obligations.OnlyClearAndDrawChangeFramebuffer := by
  unfold Obligations.OnlyClearAndDrawChangeFramebuffer
  refine ⟨fun s t h => ⟨fun hcls hdraw => ?_, fun hr => ?_, fun x y n hr => ?_⟩, fun s t a hinit h => ?_⟩
  · refine same_of_step h (p := .fb) (by simp [CyclePart]) fun i hi _ hw => ?_
    obtain rfl | ⟨x, y, n, rfl⟩ := (writes_fb_iff s i).1 hw
    · exact hcls hi
    · exact hdraw x y n hi
  · obtain rfl := eq_finish_of_step hr (exec_cls s) h
    intro x y _ _
    rw [State.pixel, State.finish_fb]
    exact Framebuffer.pixel_blank x y
  · obtain ⟨hs, -, hfb⟩ | ⟨hs, -, hfb⟩ := step_draw_cases hr h
    · exact ⟨fun _ => spriteXored_of_fb hfb, fun hne => absurd hs hne⟩
    · exact ⟨fun he => absurd he hs, fun _ => hfb⟩
  · exact changesOnly_act h .fb fun hw => hinit ((hostWrites_fb_iff a).1 hw)

end Sys2Proof.Machine

/-! ## BNNN (R128) -/

namespace Sys2Proof.Machine

theorem exec_jumpV0 (nnn : BitVec 12) (s : State) : exec (.jumpV0 nnn) s = .next (s.setPc (s.offsetTarget nnn)) :=
  exec_eq (.jumpV0 nnn) s

/-- Settles O32: BNNN is one PC write, and its sum fits a word. -/
theorem jumpWithOffsetAddsV0 : Obligations.JumpWithOffsetAddsV0 := by
  unfold Obligations.JumpWithOffsetAddsV0
  exact ⟨decodesExactly_jumpV0, fun s nnn => ⟨_, exec_jumpV0 nnn s, s.toNat_offsetTarget nnn, changesOnly_setPc s _⟩⟩

/-! ## 7XNN, 8XY1 to 8XY3, 8XY7 and CXNN (R152, R154 to R156, R160, R165) -/

theorem exec_addImm (x : Reg) (nn : Byte) (s : State) :
    exec (.addImm x nn) s = .next (s.setReg x (addResult (s.reg x) nn)).advance :=
  exec_eq (.addImm x nn) s

theorem exec_orReg (x y : Reg) (s : State) : exec (.orReg x y) s = .next (s.setReg x (s.reg x ||| s.reg y)).advance :=
  exec_eq (.orReg x y) s

theorem exec_andReg (x y : Reg) (s : State) : exec (.andReg x y) s = .next (s.setReg x (s.reg x &&& s.reg y)).advance :=
  exec_eq (.andReg x y) s

theorem exec_xorReg (x y : Reg) (s : State) : exec (.xorReg x y) s = .next (s.setReg x (s.reg x ^^^ s.reg y)).advance :=
  exec_eq (.xorReg x y) s

theorem exec_subnReg (x y : Reg) (s : State) : exec (.subnReg x y) s =
    .next (s.setRegFlag x (subResult (s.reg y) (s.reg x)) (notBorrowFlag (s.reg y) (s.reg x))).advance :=
  exec_eq (.subnReg x y) s

theorem exec_rnd (x : Reg) (nn : Byte) (s : State) :
    exec (.rnd x nn) s = .next (s.consumeRnd.setReg x (s.nextRnd &&& nn)).advance :=
  exec_eq (.rnd x nn) s

/-- Settles O36: 7XNN writes the sum to one register and advances. -/
theorem addImmediateWrapsWithoutFlag : Obligations.AddImmediateWrapsWithoutFlag := by
  unfold Obligations.AddImmediateWrapsWithoutFlag
  refine ⟨decodesExactly_addImm, fun s x nn => ?_⟩
  obtain ⟨t, ht, hx, hpc, hframe⟩ := exec_writesReg (exec_addImm x nn s)
  exact ⟨t, ht, (congrArg BitVec.toNat hx).trans (toNat_addResult _ _), hpc, hframe⟩

/-- Settles O37: all three write one register and advance. -/
theorem bitwiseInstructionsWriteNoFlag : Obligations.BitwiseInstructionsWriteNoFlag := by
  unfold Obligations.BitwiseInstructionsWriteNoFlag
  refine ⟨decodesExactly_orReg, decodesExactly_andReg, decodesExactly_xorReg, fun s x y => ⟨?_, ?_, ?_⟩⟩
  · exact exec_writesReg (exec_orReg x y s)
  · exact exec_writesReg (exec_andReg x y s)
  · exact exec_writesReg (exec_xorReg x y s)

/-- Settles O40: 8XY7 is a flag writer's commit of the difference with the not-borrow. -/
theorem reverseSubtractSetsFlagLast : Obligations.ReverseSubtractSetsFlagLast := by
  unfold Obligations.ReverseSubtractSetsFlagLast
  refine ⟨decodesExactly_subnReg, fun s x y => ?_⟩
  obtain ⟨t, ht, hx, hf, hpc, hframe⟩ := exec_writesRegFlag (exec_subnReg x y s)
  refine ⟨t, ht, fun hne => ?_, fun h => hf.trans (notBorrowFlag_of_lt h), fun h => hf.trans (notBorrowFlag_of_le h), hpc,
    hframe⟩
  rw [hx hne, toNat_subResult]

/-- Settles O41: CXNN consumes the next random byte, writes it masked to one register and advances. -/
theorem randomByteIsMasked : Obligations.RandomByteIsMasked := by
  unfold Obligations.RandomByteIsMasked
  refine ⟨decodesExactly_rnd, fun s x nn => ?_⟩
  have hx : (s.consumeRnd.setReg x (s.nextRnd &&& nn)).advance.reg x = s.nextRnd &&& nn :=
    (State.reg_setReg _ x x _).trans (if_pos rfl)
  refine ⟨_, exec_rnd x nn s, hx, fun hnn => ?_, rfl, rfl, (changesOnly_effect s (.rnd x nn)).mono ?_⟩
  · rw [hx, hnn]; exact BitVec.and_zero
  · rintro p ((hp | hp) | hp) <;> simp [hp]

/-! ## FX1E and FX29 (R181, R182) -/

theorem exec_addI (x : Reg) (s : State) : exec (.addI x) s = .next (s.setI (s.indexSum x)).advance := exec_eq (.addI x) s

theorem exec_glyph (x : Reg) (s : State) : exec (.glyph x) s = .next (s.setI (s.glyphAddr x)).advance :=
  exec_eq (.glyph x) s

theorem State.toNat_indexSum (s : State) (x : Reg) : (s.indexSum x).toNat = (s.i.toNat + (s.reg x).toNat) % 65536 :=
  BitVec.toNat_ofNat _ 16

/-- Five times a byte fits a word, so R182's truncation loses nothing. -/
theorem State.toNat_glyphAddr (s : State) (x : Reg) : (s.glyphAddr x).toNat = (s.reg x).toNat * 5 := by
  have := (s.reg x).isLt
  exact (BitVec.toNat_ofNat _ 16).trans (Nat.mod_eq_of_lt (by omega))

/-- Settles O44: both write I and advance. -/
theorem indexArithmeticIsUnchecked : Obligations.IndexArithmeticIsUnchecked := by
  unfold Obligations.IndexArithmeticIsUnchecked
  refine ⟨decodesExactly_addI, decodesExactly_glyph, fun s x => ⟨?_, ?_⟩⟩
  · obtain ⟨t, ht, hI, hpc, hframe⟩ := exec_writesI (exec_addI x s)
    exact ⟨t, ht, (congrArg BitVec.toNat hI).trans (s.toNat_indexSum x), hpc, hframe⟩
  · obtain ⟨t, ht, hI, hpc, hframe⟩ := exec_writesI (exec_glyph x s)
    exact ⟨t, ht, (congrArg BitVec.toNat hI).trans (s.toNat_glyphAddr x), hpc, hframe⟩

/-! ## FX33, FX55 and FX65 (R183 to R185) -/

theorem exec_bcd_of_le {s : State} (x : Reg) (h : s.i.toNat + 2 ≤ 0xFFF) :
    exec (.bcd x) s = .next (s.setBytes s.ea (bcdDigits (s.reg x))).advance :=
  exec_eq_effect (if_neg (Nat.not_lt.2 h))

theorem exec_store_of_le {s : State} {x : Reg} (h : s.i.toNat + x.val ≤ 0xFFF) :
    exec (.store x) s = .next (s.setBytes s.ea (s.regsUpTo x)).advance :=
  exec_eq_effect (if_neg (Nat.not_lt.2 h))

theorem exec_load_of_le {s : State} {x : Reg} (h : s.i.toNat + x.val ≤ 0xFFF) :
    exec (.load x) s = .next (s.setRegs 0 (s.bytesAtI (x.val + 1))).advance :=
  exec_eq_effect (if_neg (Nat.not_lt.2 h))

theorem toNat_trunc8 {n : Nat} (h : n < 256) : (trunc8 n).toNat = n := (BitVec.toNat_ofNat _ 8).trans (Nat.mod_eq_of_lt h)

/-- Settles O45: FX33 writes the three digits, each of which fits a byte, from I on and advances. -/
theorem bcdStoresThreeDigits : Obligations.BcdStoresThreeDigits := by
  unfold Obligations.BcdStoresThreeDigits
  refine ⟨decodesExactly_bcd, fun s x h => ⟨_, exec_bcd_of_le x h, congrArg (· + 2) (s.setBytes_pc _ _), fun hwf => ?_,
    (changesOnly_effect s (.bcd x)).mono fun p hp => hp.symm⟩⟩
  have hv := (s.reg x).isLt
  have stored := s.byteAt_setBytes s.ea (bcdDigits (s.reg x)) hwf (Nat.succ_le_succ h)
  exact ⟨(congrArg BitVec.toNat (stored 0 (by decide : 0 < 3))).trans (toNat_trunc8 (by omega)),
    (congrArg BitVec.toNat (stored 1 (by decide : 1 < 3))).trans (toNat_trunc8 (by omega)),
    (congrArg BitVec.toNat (stored 2 (by decide : 2 < 3))).trans (toNat_trunc8 (by omega))⟩

/-- After FX55 the k-th cell from I on holds Vk (R184). -/
theorem byteAt_of_exec_store {s t : State} {x : Reg} (hwf : Memory.wf s.cfg.fontRom s.mem) (h : s.i.toNat + x.val ≤ 0xFFF)
    (ht : exec (.store x) s = .next t) {k : Reg} (hk : k ≤ x) : t.byteAt (s.i.toNat + k.val) = s.reg k := by
  cases (exec_store_of_le h).symm.trans ht
  have hlt : k.val < x.val + 1 := Nat.lt_succ_of_le hk
  rw [State.byteAt_advance, State.ea, State.byteAt_setBytes s _ _ hwf (by rw [State.length_regsUpTo]; omega) k.val
    (by rwa [State.length_regsUpTo]), State.getElem_regsUpTo s x k.val hlt]

/-- After FX65 the k-th register holds the k-th cell from I on (R185). -/
theorem reg_of_exec_load {s t : State} {x : Reg} (h : s.i.toNat + x.val ≤ 0xFFF) (ht : exec (.load x) s = .next t) {k : Reg}
    (hk : k ≤ x) : t.reg k = s.byteAt (s.i.toNat + k.val) := by
  cases (exec_load_of_le h).symm.trans ht
  have hlt : k.val < x.val + 1 := Nat.lt_succ_of_le hk
  rw [State.reg_advance, State.reg_setRegs, dif_pos ⟨Nat.zero_le _, by rw [State.length_bytesAtI]; exact hlt⟩]
  exact s.getElem_bytesAtI (x.val + 1) k.val hlt

/-- Settles O46: FX55 writes the registers from I on and advances. -/
theorem storeWritesRegistersUpToX : Obligations.StoreWritesRegistersUpToX := by
  unfold Obligations.StoreWritesRegistersUpToX
  refine ⟨decodesExactly_store, fun s x h => ⟨_, exec_store_of_le h, congrArg (· + 2) (s.setBytes_pc _ _),
    fun hwf k hk => byteAt_of_exec_store hwf h (exec_store_of_le h) hk, (changesOnly_effect s (.store x)).mono ?_⟩⟩
  rintro p (⟨k, hk, hp⟩ | hp)
  · exact .inr ⟨k, Nat.le_of_lt_succ hk, hp⟩
  · exact .inl hp

/-- Settles O47: FX65 writes the registers up to VX and advances. -/
theorem loadReadsRegistersUpToX : Obligations.LoadReadsRegistersUpToX := by
  unfold Obligations.LoadReadsRegistersUpToX
  exact ⟨decodesExactly_load, fun s x h => ⟨_, exec_load_of_le h, congrArg (· + 2) (s.setRegs_pc _ _),
    fun k hk => reg_of_exec_load h (exec_load_of_le h) hk, (changesOnly_effect s (.load x)).mono fun p hp => hp.symm⟩⟩

/-- Settles O48: the load reads the cells that the store wrote. -/
theorem storeThenLoadRestoresRegisters : Obligations.StoreThenLoadRestoresRegisters := by
  unfold Obligations.StoreThenLoadRestoresRegisters
  intro s t u r x hwf h ht hmem hcfg hi hr k hk
  rw [reg_of_exec_load (by rwa [hi]) hr hk, hi, State.byteAt_congr t u hcfg hmem]
  exact byteAt_of_exec_store hwf h ht hk

/-- Settles O49: both bytes of the word are cells that the store wrote. -/
theorem storedWordIsFetched : Obligations.StoredWordIsFetched := by
  unfold Obligations.StoredWordIsFetched
  intro s t u x k j hwf h ht hjk hj hmem hcfg hpc
  have hjx : j.val ≤ x.val := hj
  have hkx : k ≤ x := Fin.le_def.2 (by omega)
  rw [State.fetch_ok u (by omega), hpc, State.byteAt_congr t u hcfg hmem, State.byteAt_congr t u hcfg hmem,
    byteAt_of_exec_store hwf h ht hkx, Nat.add_assoc, ← hjk, byteAt_of_exec_store hwf h ht hj]

/-! ## EX9E, EXA1 and FX0A (R200 to R204) -/

theorem exec_skp_of_key {s : State} {x k : Reg} (h : (s.reg x).toNat = k.val) :
    exec (.skp x) s = .next (s.skipIf (s.key k)) := by
  have hlt : (s.reg x).toNat < 16 := h ▸ k.isLt
  have hn : s.raisedBy (.skp x) = none := if_neg (by omega)
  have hk : (⟨(s.reg x).toNat, hlt⟩ : Reg) = k := Fin.ext h
  rw [exec_eq_effect hn, effect, State.keyOf_eq s x hlt, hk]

theorem exec_sknp_of_key {s : State} {x k : Reg} (h : (s.reg x).toNat = k.val) :
    exec (.sknp x) s = .next (s.skipIf (!s.key k)) := by
  have hlt : (s.reg x).toNat < 16 := h ▸ k.isLt
  have hn : s.raisedBy (.sknp x) = none := if_neg (by omega)
  have hk : (⟨(s.reg x).toNat, hlt⟩ : Reg) = k := Fin.ext h
  rw [exec_eq_effect hn, effect, State.keyOf_eq s x hlt, hk]

/-- Settles O51: with VX a key both are skips, on the key and on its negation; otherwise they take their fault. -/
theorem skipOnKey : Obligations.SkipOnKey := by
  unfold Obligations.SkipOnKey
  refine ⟨decodesExactly_skp, decodesExactly_sknp, fun s x => ⟨fun k hk => ⟨?_, ?_⟩, fun hbad => ⟨?_, ?_⟩⟩⟩
  · exact exec_skip (exec_skp_of_key hk) Iff.rfl Iff.rfl
  · exact exec_skip (exec_sknp_of_key hk) (Bool.not_eq_true' _).to_iff (Bool.not_eq_false' _).to_iff
  · exact ⟨_, exec_eq_raise (if_pos hbad), took_raise s _ _⟩
  · exact ⟨_, exec_eq_raise (if_pos hbad), took_raise s _ _⟩

theorem exec_waitKey (x : Reg) (s : State) : exec (.waitKey x) s = .next (effect s (.waitKey x)) := exec_eq (.waitKey x) s

/-- Settles O54: with a key pressed FX0A writes one register and advances; with none it writes WAIT. -/
theorem waitKeyStoresLowestOrWaits : Obligations.WaitKeyStoresLowestOrWaits := by
  unfold Obligations.WaitKeyStoresLowestOrWaits
  refine ⟨decodesExactly_waitKey, fun s x => ⟨fun k hk hmin => ?_, fun hnone => ?_⟩⟩
  · have hexec := exec_waitKey x s
    rw [effect_waitKey_of_some ((s.lowestKey_eq_some k).2 ⟨hk, hmin⟩)] at hexec
    obtain ⟨t, ht, hx, hpc, hframe⟩ := exec_writesReg hexec
    exact ⟨t, ht, (congrArg BitVec.toNat hx).trans (toNat_byteOfKey k), hpc, hframe⟩
  · have hexec := exec_waitKey x s
    rw [effect_waitKey_of_none ((s.lowestKey_eq_none).2 hnone)] at hexec
    exact ⟨_, hexec, rfl, changesOnly_setWait s _⟩

/-! ## FX07, FX15 and FX18 (R203, R205, R206) -/

theorem exec_getDt (x : Reg) (s : State) : exec (.getDt x) s = .next (s.setReg x s.dt).advance := exec_eq (.getDt x) s

theorem exec_setDt (x : Reg) (s : State) : exec (.setDt x) s = .next (s.setDelay (s.reg x)).advance := exec_eq (.setDt x) s

theorem exec_setSt (x : Reg) (s : State) : exec (.setSt x) s = .next (s.setSound (s.reg x)).advance := exec_eq (.setSt x) s

/-- Settles O52: FX07 writes DT to one register and advances, and the tick comes after it. -/
theorem readDelayTimerBeforeTick : Obligations.ReadDelayTimerBeforeTick := by
  unfold Obligations.ReadDelayTimerBeforeTick
  refine ⟨decodesExactly_getDt, fun s x => ⟨exec_writesReg (exec_getDt x s), fun hr => ?_⟩⟩
  have hready : (s.setReg x s.dt).advance.Ready := hr.1
  refine ⟨_, step_of_runs hr (exec_getDt x s), ?_, fun hc => (finish_ready_timers hready none hc).1⟩
  rw [State.reg_congr _ _ (State.finish_v _ none), State.reg_advance, State.reg_setReg, if_pos rfl]

/-- Settles O53: each writes its timer and advances, and the end of the step ticks the timer just written. -/
theorem setTimersThenTick : Obligations.SetTimersThenTick := by
  unfold Obligations.SetTimersThenTick
  refine ⟨decodesExactly_setDt, decodesExactly_setSt, fun s x => ⟨?_, ?_, fun hr => ?_, fun hr => ?_⟩⟩
  · exact ⟨_, exec_setDt x s, rfl, rfl, changesOnly_effect s (.setDt x)⟩
  · exact ⟨_, exec_setSt x s, rfl, rfl, changesOnly_effect s (.setSt x)⟩
  · have hready : (s.setDelay (s.reg x)).advance.Ready := hr.1
    exact ⟨_, step_of_runs hr (exec_setDt x s), fun hc => (finish_ready_timers hready none hc).1,
      fun hc => (finish_ready_timers_external hready none hc).1⟩
  · have hready : (s.setSound (s.reg x)).advance.Ready := hr.1
    refine ⟨_, step_of_runs hr (exec_setSt x s), fun hc => ⟨(finish_ready_timers hready none hc).2, ?_⟩,
      fun hc => ⟨(finish_ready_timers_external hready none hc).2, finish_beep_external none hc⟩⟩
    exact (finish_ready_beep_iff hready none).trans (and_iff_right hc)

/-! ## The host's load, tick and reset (R60, R213, R260) -/

/-- Settles O57: the length decides between writing the whole image and nothing. -/
theorem loadImageIsAllOrNothing : Obligations.LoadImageIsAllOrNothing := by
  unfold Obligations.LoadImageIsAllOrNothing
  refine fun s image => ⟨fun hlen => ⟨s.setBytes 0x200 image, if_pos (decide_eq_true hlen), fun hwf k hk => ?_,
    changesOnly_setBytes s 0x200 image⟩, fun hlen => if_neg ?_⟩
  · exact s.byteAt_setBytes 0x200 image hwf (by omega) k hk
  · exact fun hfits => absurd (of_decide_eq_true hfits) (Nat.not_le.2 hlen)

theorem timerTick_external {s : State} (hc : s.cfg.tickSource = .external) (hs : s.status = .running) :
    s.timerTick = s.tick.emit none s.tickBeeps none := by
  simp only [State.timerTick, hc, hs]

theorem timerTick_idle {s : State} (h : s.cfg.tickSource = .perCycle ∨ s.status ≠ .running) :
    s.timerTick = s.emit none false none := by
  unfold State.timerTick
  split
  · next hc hs => simp [hc, hs] at h
  · rfl

/-- Settles O58: in External mode a running core ticks and emits; otherwise the action only emits. -/
theorem hostTickActsOnlyInExternalMode : Obligations.HostTickActsOnlyInExternalMode := by
  unfold Obligations.HostTickActsOnlyInExternalMode
  refine fun s => ⟨s.timerTick, rfl, ?_⟩
  by_cases hidle : s.cfg.tickSource = .perCycle ∨ s.status ≠ .running
  · rw [timerTick_idle hidle]
    exact ⟨rfl, rfl, fun hc hs => absurd hidle (by simp [hc, hs]), fun _ => ⟨rfl, changesOnly_emit s _ _ _⟩⟩
  · obtain ⟨hper, hs⟩ := not_or.1 hidle
    have hc : s.cfg.tickSource = .external := by
      cases h : s.cfg.tickSource with
      | perCycle => exact absurd h hper
      | external => rfl
    rw [timerTick_external hc (not_not.1 hs)]
    exact ⟨rfl, rfl, fun _ _ => ⟨toNat_countDown _, toNat_countDown _, s.tickBeeps_iff,
      ((changesOnly_tick s).andThen (changesOnly_emit _ _ _ _)).mono fun _ => or_assoc.1⟩, fun h => absurd h hidle⟩

theorem background_of_lt (font : Font) {a : Nat} (h : a < 80) : background font a = font[a] := dif_pos h

theorem background_of_ge (font : Font) {a : Nat} (h : 80 ≤ a) : background font a = 0 := dif_neg (Nat.not_lt.2 h)

/-- Settles O59: the reset answers the initial state for the machine's own parameters, but for the count of random bytes. -/
theorem initializeGivesResetValues : Obligations.InitializeGivesResetValues := by
  unfold Obligations.InitializeGivesResetValues
  refine fun s => ⟨s.reinit, rfl, rfl, fun a h => background_of_lt _ h, fun a h => background_of_ge _ h, fun x => ?_, rfl,
    rfl, rfl, fun j => ?_, rfl, rfl, fun k => ?_, fun x y _ _ => Framebuffer.pixel_blank x y, rfl, rfl, rfl, rfl⟩
  · exact Vector.getElem_replicate _
  · exact Vector.getElem_replicate _
  · exact Vector.getElem_replicate _

end Sys2Proof.Machine
